-- ==== Sys2Proof/Word.lean ====
section
/-! DEFINITION. The machine's words: spec 00 R9 (`WORD_BITS` = 16), R12, R13. -/

namespace Sys2Proof

/-- A 16-bit word: the contents of every register and every memory cell (R9, R12). -/
abbrev Word := BitVec 16

/-- The 8-bit character a word's low half stands for on the console (43 R171). -/
abbrev Byte := BitVec 8

/-- The number of a general register, R0 to R7: a 3-bit field of an instruction (30 R104). -/
abbrev Reg := BitVec 3

/-- A virtual page number, a physical frame number: 5 bits each (20 R66, 10 R47). -/
abbrev Page := BitVec 5

end Sys2Proof
end

