-- ==== Sys2Proof/Machine/State.lean ====
section
/-! DEFINITION. The state of the machine (spec 10 R20), its fault and refusal names, and its reset value (10 R50). -/

namespace Sys2Proof.Machine

/-- Why the model stops where the spec gives no effect. The machine's own fatal faults (60 R261) are no part of
this type: taking one is a next state (60 R266). -/
inductive Fault where
  /-- Raised by YLD and HALT when `PROC_COUNT` is 0 where they scan: 47 R241 says "the scan is not defined"
  (93 U16). No state reached from reset by the host protocol has it while RUN = 1. Safe: log entry 9. -/
  | scanOverNoProcesses
  deriving DecidableEq, Repr

/-- What the model does not accept. -/
inductive Refusal where
  /-- Answered by an arm of exec whose instruction has no meaning. Safe. -/
  | notModelled (mnemonic : String)
  /-- Answered by the reserved opcodes when the parameter `RESERVED_OPCODE_IS_NOP` is false (93 U1, treatment
  `refuse`); with the decided value true no instruction answers it. Safe: log entry 4. -/
  | reservedOpcode
  /-- Answered by a host command given when 70 R306 does not accept it, and by a Load of a pid that is not
  live (70 R309; 93 U13, U14). No instruction answers it. Safe: log entry 11. -/
  | hostCommandNotAccepted
  /-- Answered by Create with an image longer than `SEG_MAX_WORDS` (46 R222; 93 U15). No instruction answers
  it. Safe: log entry 11. -/
  | imageTooLong
  deriving DecidableEq, Repr

/-- The five fatal faults of the machine (60 R261). -/
inductive FaultCode where
  | segFault
  | freeSpaceFault
  | readProtFault
  | writeProtFault
  | illegalTrap
  deriving DecidableEq, Repr

/-- The recoverable failures of the OS operations (60 R274). -/
inductive Failure where
  | tableFull
  | noFrame
  | alreadyValid
  | alreadyInvalid
  | reservedRegion
  deriving DecidableEq, Repr

/-- One record of the diagnostic output (60 R266, R272). Log entry 15. -/
inductive DiagRecord where
  | recoverable (code : Failure)
  | fatal (code : FaultCode) (info : Word)
  deriving DecidableEq, Repr

/-- How far the host has come in the boot protocol since the last Reset (70 R306, R309, R310). Log entry 10. -/
inductive HostPhase where
  | beforeLoad
  | loaded
  | started
  deriving DecidableEq, Repr

/-- Physical memory (10 R33) as a list of (address, word) cells; an address not listed holds what Reset puts
there. The machine has no byte: its smallest cell is a word (20 R61). Log entries 1 and 2. -/
abbrev Mem := List (Nat × Word)

/-- The whole state of the machine (10 R20). The words the source calls current pid, process count, status,
bitmap, PCBs and page tables are words of `mem` (10 R40 to R47). -/
structure State where
  /-- R0 to R7 (10 R21). -/
  regs : Vector Word 8
  /-- The program counter, a virtual word address (10 R24). -/
  rpc : Word
  /-- The condition register: bit 2 = N, bit 1 = Z, bit 0 = P (10 R26). -/
  rcnd : BitVec 3
  /-- The page-table base register (10 R29). -/
  ptbr : Word
  /-- The machine-wide running flag (10 R30). -/
  run : Bool
  /-- 0, or the code of the first fatal fault (10 R31). -/
  fault : BitVec 3
  /-- The address that failed to translate, or the illegal TRAP word (10 R31). -/
  faddr : Word
  /-- Physical memory (10 R33). -/
  mem : Mem
  /-- The items the host has supplied and the machine has not taken (10 R35). -/
  consoleIn : List Word
  /-- The characters written, in order (10 R35, 43 R171, R172). -/
  consoleOut : List Byte
  /-- The diagnostic records, in order (10 R35, 60 R272). -/
  diagOut : List DiagRecord
  /-- The MODEL's own field: how many console items were awaited and taken as free values. Log entry 6. -/
  inputDraws : Nat
  /-- Which boot commands the host has given (70 R306). Log entry 10. -/
  phase : HostPhase
  deriving DecidableEq, Repr

/-- The machine right after Reset (10 R50, 70 R300 to R304). Memory lists nothing: an unlisted address holds its
reset word. Log entries 2, 3, 6, 10. -/
def State.reset : State where
  regs := Vector.replicate 8 0
  rpc := 0x0000
  rcnd := 0b010
  ptbr := 0x0000
  run := false
  fault := 0
  faddr := 0x0000
  mem := []
  consoleIn := []
  consoleOut := []
  diagOut := []
  inputDraws := 0
  phase := .beforeLoad

/-- What a step, a meaning or a host command answers. -/
abbrev Result := Host.Outcome State Fault Refusal

end Sys2Proof.Machine
end

