-- ==== Sys2Proof/Machine/Flags.lean ====
section
/-! DEFINITION. The condition codes (spec 10 R26, R27). -/

namespace Sys2Proof.Machine

/-- RCND = N. -/
abbrev flagN : BitVec 3 := 0b100

/-- RCND = Z. -/
abbrev flagZ : BitVec 3 := 0b010

/-- RCND = P. -/
abbrev flagP : BitVec 3 := 0b001

/-- The flags of a word: N if its sign bit is set, Z if it is 0, P otherwise (10 R27). -/
def flagsOf (v : Word) : BitVec 3 :=
  if v.getLsbD 15 then flagN else if v = 0 then flagZ else flagP

/-- `setcc(v)` (10 R27). -/
def State.setcc (s : State) (v : Word) : State := { s with rcnd := flagsOf v }

/-- The branch condition: some flag that is set has its mask bit set (42 R160). -/
def State.branchTaken (s : State) (nzp : BitVec 3) : Bool := nzp &&& s.rcnd != 0

end Sys2Proof.Machine
end

