-- ==== Sys2Proof/Config.lean ====
section
/-! DEFINITION. The type of the implementation parameters (spec 00 R10, R11) and the free values. The
values the spec decided stand in Machine/Params.lean. -/

namespace Sys2Proof

/-- Which bit of a bitmap word stands for which frame (00 R10 `BITMAP_ORDER`, 92 D16). -/
inductive BitOrder where
  /-- Frame i is bit (i mod 16): the spec's decision. -/
  | lsb0
  /-- Frame i is bit 15 - (i mod 16): the alternative D16 records. -/
  | msb0
  deriving DecidableEq, Repr

/-- The fourteen parameters the source leaves open (00 R10), in the order of the rule's table. -/
structure Config where
  /-- `CUR_PID_ADDR`. -/
  curPidAddr : Word
  /-- `PROC_COUNT_ADDR`. -/
  procCountAddr : Word
  /-- `OS_STATUS_ADDR`. -/
  osStatusAddr : Word
  /-- `BITMAP_ADDR`: the first of the two bitmap words. -/
  bitmapAddr : Word
  /-- `PCB_BASE`. -/
  pcbBase : Word
  /-- `PT_BASE`: the page table of pid 0. -/
  ptBase : Word
  /-- `CODE_ENTRY`: the virtual address a new process starts at. -/
  codeEntry : Word
  /-- `N_RESERVED_FRAMES`: frames below this are never allocatable. -/
  nReservedFrames : Nat
  /-- `BITMAP_ORDER`. -/
  bitmapOrder : BitOrder
  /-- `STATUS_FULL_BIT`: the bit of the status word that means "PCB table exhausted". -/
  statusFullBit : Nat
  /-- `TRAP_BASE`: the vector of entry 0 of the trap table. -/
  trapBase : Byte
  /-- `SEG_MAX_WORDS`: the largest image of one segment. -/
  segMaxWords : Nat
  /-- `JSRR_READS_BASE_FIRST`. -/
  jsrrReadsBaseFirst : Bool
  /-- `RESERVED_OPCODE_IS_NOP`. -/
  reservedOpcodeIsNop : Bool
  deriving DecidableEq, Repr

/-- The constraints of 00 R11 on the addresses: bookkeeping words first, then 64 PCBs of 3 words, then 64
page tables of 32 words, none overlapping, all below the first allocatable frame. -/
abbrev Config.LayoutOk (c : Config) : Prop :=
  [c.curPidAddr.toNat, c.procCountAddr.toNat, c.osStatusAddr.toNat,
    c.bitmapAddr.toNat, c.bitmapAddr.toNat + 1].Nodup ∧
  (∀ a ∈ [c.curPidAddr.toNat, c.procCountAddr.toNat, c.osStatusAddr.toNat, c.bitmapAddr.toNat + 1],
    a < c.pcbBase.toNat) ∧
  c.pcbBase.toNat + 64 * 3 ≤ c.ptBase.toNat ∧
  c.ptBase.toNat + 64 * 32 ≤ c.nReservedFrames * 2048

/-- FREE VALUE: the item the host supplies to the n-th blocking console read that finds `ConsoleIn` empty
(43 R171 "a model takes the returned word as a free input", R177; 93 U19, U20). It has no body: nothing
constrains it. Log entry 5. -/
opaque awaitedItem : Nat → Word

end Sys2Proof
end

