-- ==== Sys2Proof/Machine/Params.lean ====
section
/-! DEFINITION. The values of the parameters: those the source fixes (spec 00 R9) and those the spec decided
(00 R10). -/

namespace Sys2Proof.Machine

/-- The decided values of 00 R10 (92 D6, D8, D10, D12 to D18, D28). Log entry 4. -/
def config : Config where
  curPidAddr := 0x0000
  procCountAddr := 0x0001
  osStatusAddr := 0x0002
  bitmapAddr := 0x0003
  pcbBase := 0x0005
  ptBase := 0x1000
  codeEntry := 0x3000
  nReservedFrames := 3
  bitmapOrder := .lsb0
  statusFullBit := 0
  trapBase := 0x20
  segMaxWords := 4096
  jsrrReadsBaseFirst := true
  reservedOpcodeIsNop := true

/-- `MEM_WORDS` (00 R9). -/
abbrev memWords : Nat := 65536

/-- `N_FRAMES` (00 R9). -/
abbrev nFrames : Nat := 32

/-- `PAGE_WORDS` (00 R9). -/
abbrev pageWords : Nat := 2048

/-- `PT_ENTRIES` (00 R9). -/
abbrev ptEntries : Nat := 32

/-- `MAX_PROCS` (00 R9). -/
abbrev maxProcs : Nat := 64

/-- `NO_PID`: the pid field of a terminated PCB (00 R9). -/
abbrev noPid : Word := 0xFFFF

/-- `N_RESERVED_VPAGES`: virtual pages 0, 1, 2 are reserved (00 R9). -/
abbrev nReservedVpages : Nat := 3

/-- The first of the two `CODE_VPNS`, 6 and 7 (00 R9). -/
abbrev codeVpn : Page := 6

/-- The first of the two `HEAP_VPNS`, 8 and 9 (00 R9). -/
abbrev heapVpn : Page := 8

/-- `N_TRAPS` (00 R9). -/
abbrev nTraps : Nat := 10

/-- The register JSR and JSRR save the return address in (42 R162). -/
abbrev linkReg : Reg := 7

/-- The register the trap routines use (10 R22). -/
abbrev trapReg : Reg := 0

end Sys2Proof.Machine
end

