-- ==== Sys2Proof/Machine/Ops.lean ====
section
/-! DEFINITION. The named operations over memory and registers, and taking a fatal fault (spec 60 R266). -/

namespace Sys2Proof.Machine

/-! ## Physical memory (10 R33, 00 R15) -/

/-- The bit of a bitmap word that stands for frame f (10 R43, 45 R201). -/
def frameBit (f : Nat) : Word :=
  match config.bitmapOrder with
  | .lsb0 => 1#16 <<< (f % 16)
  | .msb0 => 1#16 <<< (15 - f % 16)

/-- The word k (0 or 1) of the bitmap after Reset: reserved frames used, all others free (70 R301). -/
def resetBitmapWord (k : Nat) : Word :=
  (List.range 16).foldl
    (fun w j => if 16 * k + j < config.nReservedFrames then w else w ||| frameBit (16 * k + j)) 0

/-- What Reset leaves at a physical address, and what an address the memory does not list holds
(10 R50, 70 R301). Log entry 2. -/
def resetWord (a : Nat) : Word :=
  if a = config.bitmapAddr.toNat then resetBitmapWord 0
  else if a = config.bitmapAddr.toNat + 1 then resetBitmapWord 1
  else 0x0000

/-- The word at an address. -/
def Mem.read : Mem → Nat → Word
  | [], a => resetWord a
  | (b, w) :: m, a => if b = a then w else Mem.read m a

/-- Put a cell into its place by address. -/
def Mem.insert (a : Nat) (w : Word) : Mem → Mem
  | [] => [(a, w)]
  | (b, v) :: m =>
    if a < b then (a, w) :: (b, v) :: m
    else if b = a then (a, w) :: m
    else (b, v) :: Mem.insert a w m

/-- The memory with one word changed; a cell that would hold what an unlisted address holds is removed. -/
def Mem.write (m : Mem) (a : Nat) (w : Word) : Mem :=
  if w = resetWord a then m.filter (fun c => c.1 ≠ a) else Mem.insert a w m

/-- The canonical form: addresses strictly rising and inside the space, no cell equal to the unlisted word. -/
abbrev Mem.wf (m : Mem) : Prop :=
  m.Pairwise (fun c d => c.1 < d.1) ∧ ∀ c ∈ m, c.1 < memWords ∧ c.2 ≠ resetWord c.1

/-- `Phys[a]` over a memory (00 R15). -/
def Mem.phys (m : Mem) (a : Word) : Word := Mem.read m a.toNat

/-- `Phys[a] <- v` over a memory (00 R15). -/
def Mem.setPhys (m : Mem) (a v : Word) : Mem := Mem.write m a.toNat v

/-- `Phys[a]` (00 R15). -/
def State.phys (s : State) (a : Word) : Word := Mem.phys s.mem a

/-- The state with another memory. -/
def State.setMem (s : State) (m : Mem) : State := { s with mem := m }

/-- `Phys[a] <- v` (00 R15). -/
def State.setPhys (s : State) (a v : Word) : State := s.setMem (Mem.setPhys s.mem a v)

/-! ## Registers (00 R14) -/

/-- `x[i]` (00 R14). -/
def State.reg (s : State) (i : Reg) : Word := s.regs[i.toNat]'i.isLt

/-- `x[i] <- v` (00 R14). No register is hard-wired (10 R21). -/
def State.setReg (s : State) (i : Reg) (v : Word) : State :=
  { s with regs := s.regs.set i.toNat v i.isLt }

/-- `RPC <- v` (00 R14). -/
def State.setRpc (s : State) (v : Word) : State := { s with rpc := v }

/-- `PTBR <- v` (10 R29). -/
def State.setPtbr (s : State) (v : Word) : State := { s with ptbr := v }

/-- `RUN <- b` (10 R30). -/
def State.setRun (s : State) (b : Bool) : State := { s with run := b }

/-- Write a destination register and set the flags from what was written (10 R28). -/
def State.define (s : State) (dr : Reg) (v : Word) : State := (s.setReg dr v).setcc v

/-! ## The output streams (10 R35) -/

/-- Append characters to `ConsoleOut`. -/
def State.emit (s : State) (cs : List Byte) : State := { s with consoleOut := s.consoleOut ++ cs }

/-- `Diag(code)`: append a recoverable-failure record to `DiagOut` (60 R272). -/
def State.diag (s : State) (e : Failure) : State :=
  { s with diagOut := s.diagOut ++ [.recoverable e] }

/-! ## Fatal faults (60 R261, R266, R272) -/

/-- The number FAULT holds for a fault (60 R261). -/
def FaultCode.number : FaultCode → BitVec 3
  | .segFault => 1
  | .freeSpaceFault => 2
  | .readProtFault => 3
  | .writeProtFault => 4
  | .illegalTrap => 5

/-- The source's words for a fault, which the text of its record contains; IllegalTrap has none
(60 R261, R272). -/
def FaultCode.phrase : FaultCode → List String
  | .segFault => ["segmentation fault"]
  | .freeSpaceFault => ["fault inside free space"]
  | .readProtFault => ["cannot read", "page"]
  | .writeProtFault => ["cannot", "write page"]
  | .illegalTrap => []

/-- The code of a recoverable failure on the diagnostic stream (60 R274). -/
def Failure.number : Failure → Nat
  | .tableFull => 1
  | .noFrame => 2
  | .alreadyValid => 3
  | .alreadyInvalid => 4
  | .reservedRegion => 5

/-- A fault about to be raised: its code and what FADDR will hold (00 R16). -/
structure Raised where
  /-- The fault. -/
  code : FaultCode
  /-- The virtual address, or for IllegalTrap the instruction word (60 R261). -/
  info : Word
  deriving DecidableEq, Repr

/-- Fault entry, `raise F(info)` (60 R266). Nothing is saved and control goes nowhere (60 R268: there is no
return from a fault). Log entry 13. -/
def State.raise (s : State) (f : Raised) : State :=
  { s with
    fault := if s.fault = 0 then f.code.number else s.fault
    faddr := f.info
    run := false
    diagOut := s.diagOut ++ [.fatal f.code f.info] }

/-- The instruction engine performs steps (30 R101). -/
def State.engineRuns (s : State) : Bool := s.run && s.fault == 0

/-- RPC after a fetch: the address of the instruction plus one (10 R24, R25). -/
def State.advance (s : State) : State := s.setRpc (s.rpc + 1)

end Sys2Proof.Machine
end

