-- ==== Sys2Proof/Machine/Operands.lean ====
section
/-! DEFINITION. Immediates, effective addresses and the BRK request word (spec 30 R105, 41 R148, 44 R193). -/

namespace Sys2Proof.Machine

/-- `sext_N(v)` (00 R13). -/
def sext {n : Nat} (v : BitVec n) : Word := v.signExtend 16

/-- PC-relative: RPC is already incremented (30 R105, 41 R148). Serves every offset width. -/
def State.pcRelative {n : Nat} (s : State) (off : BitVec n) : Word := s.rpc + sext off

/-- Base plus offset (41 R148). -/
def State.basePlus (s : State) (base : Reg) (off : BitVec 6) : Word := s.reg base + sext off

/-- The virtual page of a BRK request: bits 15:11 (44 R193). -/
def brkVpn (req : Word) : Page := req.extractLsb' 11 5

/-- Write permission requested: bit 2 (44 R193). -/
def brkWrite (req : Word) : Bool := req.getLsbD 2

/-- Read permission requested: bit 1 (44 R193). -/
def brkRead (req : Word) : Bool := req.getLsbD 1

/-- Allocate rather than free: bit 0 (44 R193). -/
def brkAllocates (req : Word) : Bool := req.getLsbD 0

end Sys2Proof.Machine
end

