-- ==== Sys2Proof/Machine/Translate.lean ====
section
/-! DEFINITION. The translator: page-table entries, translated reads and writes, the fetch (spec 10 R46, R47;
20 R66 to R77). -/

namespace Sys2Proof.Machine

/-- V, bit 0 of a page-table entry (10 R47). -/
def pteValid (pte : Word) : Bool := pte.getLsbD 0

/-- R, bit 1 (10 R47). -/
def pteReadable (pte : Word) : Bool := pte.getLsbD 1

/-- W, bit 2 (10 R47). -/
def pteWritable (pte : Word) : Bool := pte.getLsbD 2

/-- PFN, bits 15:11 (10 R47). -/
def ptePfn (pte : Word) : Page := pte.extractLsb' 11 5

/-- The entry Allocate writes: PFN, eight zero bits, W, R, V = 1 (45 R202). -/
def makePte (pfn : Page) (writable readable : Bool) : Word :=
  pfn ++ 0#8 ++ BitVec.ofBool writable ++ BitVec.ofBool readable ++ 1#1

/-- The page number of a virtual address: bits 15:11 (20 R66). -/
def vpnOf (va : Word) : Page := va.extractLsb' 11 5

/-- The in-page offset: bits 10:0 (20 R66). -/
def offsetOf (va : Word) : BitVec 11 := va.extractLsb' 0 11

/-- A page below 3 is reserved (20 R72, 00 R9). -/
def isReservedPage (vpn : Page) : Bool := decide (vpn.toNat < nReservedVpages)

/-- (PFN << 11) | offset (20 R75). -/
def physAddr (pfn : Page) (off : BitVec 11) : Word := pfn ++ off

/-- The address of the entry of a virtual page: 16-bit, unchecked (20 R73). Log entry 12. -/
def pteAddr (ptbr : Word) (vpn : Page) : Word := ptbr + vpn.setWidth 16

/-- The page-table entry of a virtual page in a table. -/
def Mem.pte (m : Mem) (ptbr : Word) (vpn : Page) : Word := Mem.phys m (pteAddr ptbr vpn)

/-- The two kinds of translated access (20 R70, R71). -/
inductive Access where
  | read
  | write
  deriving DecidableEq, Repr

/-- The permission bit an access needs (20 R70, R71). -/
def ptePermits : Access → Word → Bool
  | .read, pte => pteReadable pte
  | .write, pte => pteWritable pte

/-- The fault of an access without its permission bit (60 R264, R265). -/
def protFault : Access → FaultCode
  | .read => .readProtFault
  | .write => .writeProtFault

/-- The physical address of a virtual one, or the fault of the first check that fails: reserved page, valid
bit, permission (20 R70, R71, R72). -/
def State.translate (s : State) (kind : Access) (va : Word) : Except Raised Word :=
  if isReservedPage (vpnOf va) then .error ⟨.segFault, va⟩
  else if ! pteValid (Mem.pte s.mem s.ptbr (vpnOf va)) then .error ⟨.freeSpaceFault, va⟩
  else if ! ptePermits kind (Mem.pte s.mem s.ptbr (vpnOf va)) then .error ⟨protFault kind, va⟩
  else .ok (physAddr (ptePfn (Mem.pte s.mem s.ptbr (vpnOf va))) (offsetOf va))

/-- `MemRead(va, 1)` (20 R70). -/
def State.memRead (s : State) (va : Word) : Except Raised Word :=
  match s.translate .read va with
  | .error f => .error f
  | .ok pa => .ok (s.phys pa)

/-- `MemWrite(va, 1, v)` (20 R71). -/
def State.memWrite (s : State) (va v : Word) : Except Raised State :=
  match s.translate .write va with
  | .error f => .error f
  | .ok pa => .ok (s.setPhys pa v)

/-- The instruction fetch is a translated read at RPC (20 R77, 30 R101). -/
def State.fetch (s : State) : Except Raised Word := s.memRead s.rpc

end Sys2Proof.Machine
end

