-- ==== Sys2Proof/Machine/Allocator.lean ====
section
/-! DEFINITION. The frame allocator (spec 45). Both operations answer the new memory, or the failure with no
side effect (45 R200, R206). -/

namespace Sys2Proof.Machine

/-- `bm_addr(f)` (45 R201). -/
def bitmapAddrOf (f : Page) : Word := config.bitmapAddr + BitVec.ofNat 16 (f.toNat / 16)

/-- `is_free(f)`: the frame's bit is 1 (45 R201). -/
def Mem.isFree (m : Mem) (f : Page) : Bool := Mem.phys m (bitmapAddrOf f) &&& frameBit f.toNat != 0

/-- `mark_used(f)` (45 R201). -/
def Mem.markUsed (m : Mem) (f : Page) : Mem :=
  Mem.setPhys m (bitmapAddrOf f) (Mem.phys m (bitmapAddrOf f) &&& ~~~ frameBit f.toNat)

/-- `mark_free(f)` (45 R201). -/
def Mem.markFree (m : Mem) (f : Page) : Mem :=
  Mem.setPhys m (bitmapAddrOf f) (Mem.phys m (bitmapAddrOf f) ||| frameBit f.toNat)

/-- The 32 page or frame numbers in increasing order. -/
def pages : List Page := (List.range nFrames).map (BitVec.ofNat 5)

/-- The lowest-numbered free frame (45 R202). -/
def Mem.firstFree (m : Mem) : Option Page := pages.find? (Mem.isFree m)

/-- `Allocate(ptbr, vpn, want_read, want_write)` (45 R202). -/
def Mem.allocate (m : Mem) (ptbr : Word) (vpn : Page) (wantRead wantWrite : Bool) : Except Failure Mem :=
  if pteValid (Mem.pte m ptbr vpn) then .error .alreadyValid
  else
    match Mem.firstFree m with
    | none => .error .noFrame
    | some f => .ok (Mem.setPhys (Mem.markUsed m f) (pteAddr ptbr vpn) (makePte f wantWrite wantRead))

/-- `Free(vpn, ptbr)`: the bitmap bit set, V cleared, the entry's other bits left (45 R203). -/
def Mem.free (m : Mem) (vpn : Page) (ptbr : Word) : Except Failure Mem :=
  if pteValid (Mem.pte m ptbr vpn) then
    .ok (Mem.setPhys (Mem.markFree m (ptePfn (Mem.pte m ptbr vpn))) (pteAddr ptbr vpn)
      (Mem.pte m ptbr vpn &&& 0xFFFE))
  else .error .alreadyInvalid

/-- A Free whose result is ignored (46 R223 rollback, 47 R243). -/
def Mem.freeQuiet (m : Mem) (vpn : Page) (ptbr : Word) : Mem :=
  match Mem.free m vpn ptbr with
  | .ok m' => m'
  | .error _ => m

/-- Quiet Frees of several pages, in order. -/
def Mem.freePages (m : Mem) (ptbr : Word) : List Page → Mem
  | [] => m
  | v :: vs => Mem.freePages (Mem.freeQuiet m v ptbr) ptbr vs

end Sys2Proof.Machine
end

