-- ==== Sys2Proof/Machine/Process.lean ====
section
/-! DEFINITION. The process manager: the OS words, PCBs, Load, Save, Create (spec 10 R40 to R49, 46). -/

namespace Sys2Proof.Machine

/-- `ptbr_of(pid)` (46 R221). -/
def ptbrOf (pid : Word) : Word := config.ptBase + 32 * pid

/-- The address of a word of a PCB: field 0 pid, 1 pc, 2 ptbr (10 R44). -/
def pcbAddr (pid field : Word) : Word := config.pcbBase + 3 * pid + field

/-- `CUR_PID` (10 R40). -/
def Mem.curPid (m : Mem) : Word := Mem.phys m config.curPidAddr

/-- `PROC_COUNT` (10 R41). -/
def Mem.procCount (m : Mem) : Word := Mem.phys m config.procCountAddr

/-- `OS_STATUS` (10 R42). -/
def Mem.osStatus (m : Mem) : Word := Mem.phys m config.osStatusAddr

/-- `PCB[p].pid` (10 R44). -/
def Mem.pcbPid (m : Mem) (pid : Word) : Word := Mem.phys m (pcbAddr pid 0)

/-- `PCB[p].pc` (10 R44). -/
def Mem.pcbPc (m : Mem) (pid : Word) : Word := Mem.phys m (pcbAddr pid 1)

/-- `PCB[p].ptbr` (10 R44). -/
def Mem.pcbPtbr (m : Mem) (pid : Word) : Word := Mem.phys m (pcbAddr pid 2)

/-- The four states of a process slot (10 R49). -/
inductive ProcState where
  | nonexistent
  | terminated
  | running
  | ready
  deriving DecidableEq, Repr

/-- The state of slot p (10 R49). Of a slot below `PROC_COUNT` whose pid word is neither p nor 0xFFFF, which
10 R45 excludes, it answers what the pid word p would give (log entry 18). -/
def State.procState (s : State) (p : Word) : ProcState :=
  if (Mem.procCount s.mem).toNat ≤ p.toNat then .nonexistent
  else if Mem.pcbPid s.mem p = noPid then .terminated
  else if Mem.curPid s.mem = p ∧ s.run then .running
  else .ready

/-- `Load(pid)` (46 R226). -/
def State.load (s : State) (pid : Word) : State :=
  ((s.setRpc (Mem.pcbPc s.mem pid)).setPtbr (Mem.pcbPtbr s.mem pid)).setPhys config.curPidAddr pid

/-- `Save(cur)`: the first half of a Yield (46 R227). -/
def State.save (s : State) (cur : Word) : State :=
  (s.setPhys (pcbAddr cur 1) s.rpc).setPhys (pcbAddr cur 2) s.ptbr

/-! ## Create (46 R222 to R225) -/

/-- `OS_STATUS` bit `STATUS_FULL_BIT` as a word (10 R42). -/
def fullFlag : Word := 1#16 <<< config.statusFullBit

/-- Step 1's test: the table is marked full, or 64 pids are used up (46 R223). -/
def Mem.tableFull (m : Mem) : Bool :=
  Mem.osStatus m &&& fullFlag != 0 || decide (maxProcs ≤ (Mem.procCount m).toNat)

/-- Step 2: write the PCB of a new pid (46 R223). -/
def Mem.writePcb (m : Mem) (pid : Word) : Mem :=
  Mem.setPhys
    (Mem.setPhys (Mem.setPhys m (pcbAddr pid 0) pid) (pcbAddr pid 1) config.codeEntry)
    (pcbAddr pid 2) (ptbrOf pid)

/-- `LoadImage(img, ptbr, v0)` from word k on (46 R224). -/
def Mem.loadImageFrom (m : Mem) (ptbr : Word) (v0 : Page) : Nat → List Word → Mem
  | _, [] => m
  | k, w :: img =>
    let v : Page := v0 + BitVec.ofNat 5 (k / pageWords)
    let f := ptePfn (Mem.pte m ptbr v)
    Mem.loadImageFrom (Mem.setPhys m (physAddr f (BitVec.ofNat 11 (k % pageWords))) w) ptbr v0 (k + 1) img

/-- `LoadImage(img, ptbr, v0)` (46 R224). -/
def Mem.loadImage (m : Mem) (img : List Word) (ptbr : Word) (v0 : Page) : Mem :=
  Mem.loadImageFrom m ptbr v0 0 img

/-- Two consecutive pages of one segment, allocated in order. On a failure, its code and the memory as it is
then (46 R223 steps 3 and 4). -/
def Mem.allocateTwo (m : Mem) (ptbr : Word) (v0 : Page) (wantWrite : Bool) :
    Except (Failure × Mem) Mem :=
  match Mem.allocate m ptbr v0 true wantWrite with
  | .error e => .error (e, m)
  | .ok m1 =>
    match Mem.allocate m1 ptbr (v0 + 1) true wantWrite with
    | .error e => .error (e, m1)
    | .ok m2 => .ok m2

/-- Steps 2 to 4 of Create for a new pid: the PCB, the code segment (readable) and the heap segment (readable
and writable), each image loaded after its two pages are allocated (46 R223). -/
def Mem.buildProcess (m : Mem) (pid : Word) (code heap : List Word) : Except (Failure × Mem) Mem :=
  match Mem.allocateTwo (Mem.writePcb m pid) (ptbrOf pid) codeVpn false with
  | .error e => .error e
  | .ok m1 =>
    match Mem.allocateTwo (Mem.loadImage m1 code (ptbrOf pid) codeVpn) (ptbrOf pid) heapVpn true with
    | .error e => .error e
    | .ok m2 => .ok (Mem.loadImage m2 heap (ptbrOf pid) heapVpn)

/-- Step 5: Free of pages 9, 8, 7, 6, results ignored (46 R223, R225). -/
def Mem.rollback (m : Mem) (pid : Word) : Mem :=
  Mem.freePages m (ptbrOf pid) [heapVpn + 1, heapVpn, codeVpn + 1, codeVpn]

/-- `Create(code, heap)`: the new pid, or none for failure, and the state (46 R223). -/
def State.create (s : State) (code heap : List Word) : Option Word × State :=
  let n := Mem.procCount s.mem
  if Mem.tableFull s.mem then
    (none, (s.setPhys config.osStatusAddr (Mem.osStatus s.mem ||| fullFlag)).diag .tableFull)
  else
    match Mem.buildProcess s.mem n code heap with
    | .ok m => (some n, s.setMem (Mem.setPhys m config.procCountAddr (n + 1)))
    | .error (e, m) => (none, (s.setMem (Mem.rollback m n)).diag e)

end Sys2Proof.Machine
end

