-- ==== Sys2Proof/Machine/Boot.lean ====
section
/-! DEFINITION. The host interface: Reset, Create, Load, Start and console input (spec 70 R300 to R313). The host
acts between steps; step performs no host command. -/

namespace Sys2Proof.Machine

/-- The commands of 70 R306. -/
inductive Command where
  /-- Reset (70 R300, R307). -/
  | reset
  /-- Create(code, heap) (70 R308). -/
  | create (code heap : List Word)
  /-- Load(pid) (70 R309). -/
  | load (pid : Word)
  /-- Start (70 R310). -/
  | start
  /-- Console input (70 R311). -/
  | input (items : List Word)
  /-- Read-out (70 R312). -/
  | readOut
  deriving DecidableEq, Repr

/-- What the host may observe of a machine that does not run (70 R312). -/
structure ReadOut where
  /-- R0 to R7. -/
  regs : Vector Word 8
  /-- RCND. -/
  rcnd : BitVec 3
  /-- RPC. -/
  rpc : Word
  /-- PTBR. -/
  ptbr : Word
  /-- FAULT. -/
  fault : BitVec 3
  /-- FADDR. -/
  faddr : Word
  /-- All of physical memory. -/
  mem : Mem
  /-- `ConsoleOut`. -/
  consoleOut : List Byte
  /-- `DiagOut`. -/
  diagOut : List DiagRecord
  deriving DecidableEq, Repr

/-- What a command returns to the host. -/
inductive Reply where
  /-- Nothing: Reset, Load, Start, console input. -/
  | done
  /-- Create succeeded, with this pid (70 R308, 46 R223). -/
  | created (pid : Word)
  /-- Create failed (70 R308, 46 R223). -/
  | createFailed
  /-- Read-out (70 R312). -/
  | observed (r : ReadOut)
  deriving DecidableEq, Repr

/-- Create, Load and Start are accepted: RUN = 0, FAULT = 0, not yet started since the last Reset (70 R306). -/
def State.acceptsBoot (s : State) : Bool := !s.run && s.fault == 0 && s.phase != .started

/-- The pid is that of a live process (70 R309). -/
def State.isLivePid (s : State) (pid : Word) : Bool :=
  decide (pid.toNat < (Mem.procCount s.mem).toNat) && Mem.pcbPid s.mem pid == pid

/-- Reset, from any state (70 R300). The draws counter is the model's own and is not rewound (log entry 6). -/
def State.hostReset (s : State) : State := { State.reset with inputDraws := s.inputDraws }

/-- `RUN <- 1` (70 R310). -/
def State.hostStart (s : State) : State := { s.setRun true with phase := .started }

/-- Load by the host (70 R309). -/
def State.hostLoad (s : State) (pid : Word) : State := { s.load pid with phase := .loaded }

/-- What the read-out of a state shows (70 R312). -/
def State.readOut (s : State) : ReadOut where
  regs := s.regs
  rcnd := s.rcnd
  rpc := s.rpc
  ptbr := s.ptbr
  fault := s.fault
  faddr := s.faddr
  mem := s.mem
  consoleOut := s.consoleOut
  diagOut := s.diagOut

/-- What Create returns to the host: the pid or failure (70 R308). -/
def createReply : Option Word → Reply
  | some pid => .created pid
  | none => .createFailed

/-- One host command: what it returns and the state after it. What 70 R306 does not accept is refused by name. Log
entry 11. -/
def hostAct (c : Command) (s : State) : Host.Outcome (Reply × State) Fault Refusal :=
  match c with
  | .reset => .next (.done, s.hostReset)
  | .create code heap =>
    if ! s.acceptsBoot then .refused .hostCommandNotAccepted
    else if config.segMaxWords < code.length ∨ config.segMaxWords < heap.length then .refused .imageTooLong
    else .next (createReply (s.create code heap).1, (s.create code heap).2)
  | .load pid =>
    if s.acceptsBoot && s.isLivePid pid then .next (.done, s.hostLoad pid)
    else .refused .hostCommandNotAccepted
  | .start =>
    if s.acceptsBoot && s.phase == .loaded then .next (.done, s.hostStart)
    else .refused .hostCommandNotAccepted
  | .input items => .next (.done, { s with consoleIn := s.consoleIn ++ items })
  | .readOut => if s.run then .refused .hostCommandNotAccepted else .next (.observed s.readOut, s)

/-- Create one process, Load it, Start (70 R313), on a state that keeps its registers and streams; if no
process can be created there, the same after a Reset. -/
def State.boot (s : State) (code heap : List Word) : State :=
  match State.create { s with run := false, fault := 0, faddr := 0 } code heap with
  | (some pid, t) => (t.hostLoad pid).hostStart
  | (none, _) =>
    match s.hostReset.create code heap with
    | (some pid, t) => (t.hostLoad pid).hostStart
    | (none, t) => t

/-- The physical address the next step fetches from, if it fetches one. -/
def State.fetchAddr (s : State) : Option Word :=
  if s.engineRuns then
    match s.translate .read s.rpc with
    | .ok pa => some pa
    | .error _ => none
  else none

/-- The state in which the next step fetches the word: stored where RPC points, or, where no instruction could
be fetched, as the one-word code image of a process booted by the host protocol. Log entry 14. -/
def State.placeWord (s : State) (w : Word) : State :=
  match s.fetchAddr with
  | some pa => s.setPhys pa w
  | none => s.boot [w] []

end Sys2Proof.Machine
end

