-- ==== Sys2Proof/Machine/Alu.lean ====
section
/-! DEFINITION. ADD, AND and NOT (spec 40). -/

namespace Sys2Proof.Machine

/-- ADD, register form (40 R130). -/
def execAdd (dr sr1 sr2 : Reg) (s : State) : Result :=
  .next (s.define dr (s.reg sr1 + s.reg sr2))

/-- ADD, immediate form (40 R131). -/
def execAddi (dr sr1 : Reg) (imm : BitVec 5) (s : State) : Result :=
  .next (s.define dr (s.reg sr1 + sext imm))

/-- AND, register form (40 R132). -/
def execAnd (dr sr1 sr2 : Reg) (s : State) : Result :=
  .next (s.define dr (s.reg sr1 &&& s.reg sr2))

/-- AND, immediate form (40 R133). -/
def execAndi (dr sr1 : Reg) (imm : BitVec 5) (s : State) : Result :=
  .next (s.define dr (s.reg sr1 &&& sext imm))

/-- NOT (40 R134). -/
def execNot (dr sr1 : Reg) (s : State) : Result :=
  .next (s.define dr (~~~ s.reg sr1))

end Sys2Proof.Machine
end

