-- ==== Sys2Proof/Syntax.lean ====
section
/-! DEFINITION. The instructions: one constructor per row of spec/opcode_table.json, in the table's order.
Fields a rule calls ignored (30 R108) are no part of an instruction. -/

namespace Sys2Proof

/-- The instruction set (30 R106, R107). A field has the width of its place in the word (30 R103 to R105);
the meaning extends it. -/
inductive Instr where
  /-- BR: mask bits n, z, p (bits 2, 1, 0 of `nzp`) and PCoffset9 (42 R160). -/
  | br (nzp : BitVec 3) (off : BitVec 9)
  /-- ADD, register form (40 R130). -/
  | add (dr sr1 sr2 : Reg)
  /-- ADD, immediate form (40 R131). -/
  | addi (dr sr1 : Reg) (imm : BitVec 5)
  /-- LD, load PC-relative (41 R141). -/
  | ld (dr : Reg) (off : BitVec 9)
  /-- ST, store PC-relative (41 R145). -/
  | st (sr : Reg) (off : BitVec 9)
  /-- JSR, call PC-relative (42 R162). -/
  | jsr (off : BitVec 11)
  /-- JSRR, call through a register (42 R163). -/
  | jsrr (base : Reg)
  /-- AND, register form (40 R132). -/
  | and (dr sr1 sr2 : Reg)
  /-- AND, immediate form (40 R133). -/
  | andi (dr sr1 : Reg) (imm : BitVec 5)
  /-- LDR, load base plus offset (41 R143). -/
  | ldr (dr base : Reg) (off : BitVec 6)
  /-- STR, store base plus offset (41 R147). -/
  | str (sr base : Reg) (off : BitVec 6)
  /-- Reserved opcode 8 (42 R166). -/
  | rsv8
  /-- NOT (40 R134). -/
  | not (dr sr1 : Reg)
  /-- LDI, load indirect (41 R142). -/
  | ldi (dr : Reg) (off : BitVec 9)
  /-- STI, store indirect (41 R146). -/
  | sti (sr : Reg) (off : BitVec 9)
  /-- JMP, and RET when the base is R7 (42 R161). -/
  | jmp (base : Reg)
  /-- Reserved opcode 13 (42 R167). -/
  | rsv13
  /-- LEA, load effective address (41 R144). -/
  | lea (dr : Reg) (off : BitVec 9)
  /-- GETC, trap 0x20 (43 R173). -/
  | getc
  /-- OUT, trap 0x21 (43 R174). -/
  | out
  /-- PUTS, trap 0x22 (43 R175). -/
  | puts
  /-- IN, trap 0x23 (43 R176). -/
  | inEcho
  /-- PUTSP, trap 0x24, the defined no-op (43 R178). -/
  | putsp
  /-- HALT, trap 0x25 (44 R192). -/
  | halt
  /-- INU16, trap 0x26 (43 R179). -/
  | inu16
  /-- OUTU16, trap 0x27 (43 R180). -/
  | outu16
  /-- YLD, trap 0x28 (44 R190). -/
  | yld
  /-- BRK, trap 0x29 (44 R191). -/
  | brk
  /-- A TRAP whose vector is outside the table (43 R181). `ignored` is bits 11:8 of the word: the decoder does
  not look at them, but the fault records the whole instruction word. Log entry 17. -/
  | trapIllegal (ignored : BitVec 4) (vect : Byte)
  deriving DecidableEq, Repr

/-- RET is JMP R7 (30 R113). -/
abbrev Instr.ret : Instr := .jmp 7

/-- NOP is BR with mask 000 and offset 0 (30 R113). -/
abbrev Instr.nop : Instr := .br 0 0

/-- BR without letters is BRnzp (30 R113). -/
abbrev Instr.brAlways (off : BitVec 9) : Instr := .br 7 off

end Sys2Proof
end

