-- ==== Sys2Proof/WellFormed.lean ====
section
/-! DEFINITION. Which terms of `Instr` are instructions: the field widths say it all but for the vector of an
illegal TRAP, which must lie outside the trap table (spec 30 R107, R109). -/

namespace Sys2Proof

/-- The vector selects an entry of the ten-entry trap table (30 R107). -/
abbrev InTrapTable (vect : Byte) : Prop :=
  Machine.config.trapBase.toNat ≤ vect.toNat ∧ vect.toNat < Machine.config.trapBase.toNat + Machine.nTraps

/-- The checks an instruction must pass. -/
def WellFormed : Instr → Bool
  | .br _ _ | .add _ _ _ | .addi _ _ _ | .ld _ _ | .st _ _ | .jsr _ | .jsrr _ | .and _ _ _ | .andi _ _ _
  | .ldr _ _ _ | .str _ _ _ | .rsv8 | .not _ _ | .ldi _ _ | .sti _ _ | .jmp _ | .rsv13 | .lea _ _
  | .getc | .out | .puts | .inEcho | .putsp | .halt | .inu16 | .outu16 | .yld | .brk => true
  | .trapIllegal _ vect => ! decide (InTrapTable vect)

end Sys2Proof
end

