-- ==== Sys2Proof/Decode.lean ====
section
/-! DEFINITION. Decoding (spec 30 R102, R103 to R110, R114), the opcode table as data, and the encoder. -/

namespace Sys2Proof

/-- The TRAP words: a vector inside the table names its routine, any other is illegal (30 R107, R109). -/
def decodeTrap (ignored : BitVec 4) (vect : Byte) : Instr :=
  if InTrapTable vect then
    match vect.toNat - Machine.config.trapBase.toNat with
    | 0 => .getc
    | 1 => .out
    | 2 => .puts
    | 3 => .inEcho
    | 4 => .putsp
    | 5 => .halt
    | 6 => .inu16
    | 7 => .outu16
    | 8 => .yld
    | _ => .brk
  else .trapIllegal ignored vect

/-- `DR` and `SR`: bits 11:9 (30 R104). -/
def fieldDr (w : Word) : Reg := w.extractLsb' 9 3

/-- `SR1` and `BaseR`: bits 8:6 (30 R104). -/
def fieldSr1 (w : Word) : Reg := w.extractLsb' 6 3

/-- `SR2`: bits 2:0 (30 R104). -/
def fieldSr2 (w : Word) : Reg := w.extractLsb' 0 3

/-- `imm5`: bits 4:0 (30 R105). -/
def fieldImm5 (w : Word) : BitVec 5 := w.extractLsb' 0 5

/-- `offset6`: bits 5:0 (30 R105). -/
def fieldOff6 (w : Word) : BitVec 6 := w.extractLsb' 0 6

/-- `PCoffset9`: bits 8:0 (30 R105). -/
def fieldOff9 (w : Word) : BitVec 9 := w.extractLsb' 0 9

/-- `PCoffset11`: bits 10:0 (30 R105). -/
def fieldOff11 (w : Word) : BitVec 11 := w.extractLsb' 0 11

/-- The opcode: bits 15:12, as a number 0 to 15 (30 R102). -/
def fieldOp (w : Word) : Nat := (w.extractLsb' 12 4).toNat

/-- The decoder, total over all 65536 words (30 R102, R114). -/
def decode (w : Word) : Instr :=
  match fieldOp w with
  | 0 => .br (fieldDr w) (fieldOff9 w)
  | 1 =>
    if w.getLsbD 5 then .addi (fieldDr w) (fieldSr1 w) (fieldImm5 w)
    else .add (fieldDr w) (fieldSr1 w) (fieldSr2 w)
  | 2 => .ld (fieldDr w) (fieldOff9 w)
  | 3 => .st (fieldDr w) (fieldOff9 w)
  | 4 => if w.getLsbD 11 then .jsr (fieldOff11 w) else .jsrr (fieldSr1 w)
  | 5 =>
    if w.getLsbD 5 then .andi (fieldDr w) (fieldSr1 w) (fieldImm5 w)
    else .and (fieldDr w) (fieldSr1 w) (fieldSr2 w)
  | 6 => .ldr (fieldDr w) (fieldSr1 w) (fieldOff6 w)
  | 7 => .str (fieldDr w) (fieldSr1 w) (fieldOff6 w)
  | 8 => .rsv8
  | 9 => .not (fieldDr w) (fieldSr1 w)
  | 10 => .ldi (fieldDr w) (fieldOff9 w)
  | 11 => .sti (fieldDr w) (fieldOff9 w)
  | 12 => .jmp (fieldSr1 w)
  | 13 => .rsv13
  | 14 => .lea (fieldDr w) (fieldOff9 w)
  | _ => decodeTrap (w.extractLsb' 8 4) (w.extractLsb' 0 8)

/-- The canonical word of TRAP with a vector (30 R103, R108). -/
def trapWord (ignored : BitVec 4) (vect : Byte) : Word := 0b1111#4 ++ ignored ++ vect

/-- The canonical word of the trap routine with this index in the table (30 R107). -/
def routineWord (index : Byte) : Word := trapWord 0 (Machine.config.trapBase + index)

/-- The canonical word of an instruction: bits no field uses are 0, except in NOT, where they are 1
(30 R103, R108). -/
def encode : Instr → Word
  | .br nzp off => 0b0000#4 ++ nzp ++ off
  | .add dr sr1 sr2 => 0b0001#4 ++ dr ++ sr1 ++ 0b000#3 ++ sr2
  | .addi dr sr1 imm => 0b0001#4 ++ dr ++ sr1 ++ 0b1#1 ++ imm
  | .ld dr off => 0b0010#4 ++ dr ++ off
  | .st sr off => 0b0011#4 ++ sr ++ off
  | .jsr off => 0b01001#5 ++ off
  | .jsrr base => 0b0100000#7 ++ base ++ 0b000000#6
  | .and dr sr1 sr2 => 0b0101#4 ++ dr ++ sr1 ++ 0b000#3 ++ sr2
  | .andi dr sr1 imm => 0b0101#4 ++ dr ++ sr1 ++ 0b1#1 ++ imm
  | .ldr dr base off => 0b0110#4 ++ dr ++ base ++ off
  | .str sr base off => 0b0111#4 ++ sr ++ base ++ off
  | .rsv8 => 0x8000
  | .not dr sr1 => 0b1001#4 ++ dr ++ sr1 ++ 0b111111#6
  | .ldi dr off => 0b1010#4 ++ dr ++ off
  | .sti sr off => 0b1011#4 ++ sr ++ off
  | .jmp base => 0b1100000#7 ++ base ++ 0b000000#6
  | .rsv13 => 0xD000
  | .lea dr off => 0b1110#4 ++ dr ++ off
  | .getc => routineWord 0
  | .out => routineWord 1
  | .puts => routineWord 2
  | .inEcho => routineWord 3
  | .putsp => routineWord 4
  | .halt => routineWord 5
  | .inu16 => routineWord 6
  | .outu16 => routineWord 7
  | .yld => routineWord 8
  | .brk => routineWord 9
  | .trapIllegal ignored vect => trapWord ignored vect

/-- A row of the opcode table: the word matches when its bits under the mask are the pattern. -/
structure OpcodeRow where
  /-- The row's "mnemonic". -/
  mnemonic : String
  /-- The row's "match". -/
  pattern : Word
  /-- The row's "mask". -/
  mask : Word
  deriving DecidableEq, Repr

/-- The word is one of the row's. -/
def OpcodeRow.matches (r : OpcodeRow) (w : Word) : Bool := w &&& r.mask == r.pattern

/-- The row of spec/opcode_table.json an instruction belongs to. -/
def rowOf : Instr → OpcodeRow
  | .br _ _ => ⟨"BR", 0x0000, 0xF000⟩
  | .add _ _ _ => ⟨"ADD", 0x1000, 0xF020⟩
  | .addi _ _ _ => ⟨"ADDI", 0x1020, 0xF020⟩
  | .ld _ _ => ⟨"LD", 0x2000, 0xF000⟩
  | .st _ _ => ⟨"ST", 0x3000, 0xF000⟩
  | .jsr _ => ⟨"JSR", 0x4800, 0xF800⟩
  | .jsrr _ => ⟨"JSRR", 0x4000, 0xF800⟩
  | .and _ _ _ => ⟨"AND", 0x5000, 0xF020⟩
  | .andi _ _ _ => ⟨"ANDI", 0x5020, 0xF020⟩
  | .ldr _ _ _ => ⟨"LDR", 0x6000, 0xF000⟩
  | .str _ _ _ => ⟨"STR", 0x7000, 0xF000⟩
  | .rsv8 => ⟨"RSV8", 0x8000, 0xF000⟩
  | .not _ _ => ⟨"NOT", 0x9000, 0xF000⟩
  | .ldi _ _ => ⟨"LDI", 0xA000, 0xF000⟩
  | .sti _ _ => ⟨"STI", 0xB000, 0xF000⟩
  | .jmp _ => ⟨"JMP", 0xC000, 0xF000⟩
  | .rsv13 => ⟨"RSV13", 0xD000, 0xF000⟩
  | .lea _ _ => ⟨"LEA", 0xE000, 0xF000⟩
  | .getc => ⟨"GETC", 0xF020, 0xF0FF⟩
  | .out => ⟨"OUT", 0xF021, 0xF0FF⟩
  | .puts => ⟨"PUTS", 0xF022, 0xF0FF⟩
  | .inEcho => ⟨"IN", 0xF023, 0xF0FF⟩
  | .putsp => ⟨"PUTSP", 0xF024, 0xF0FF⟩
  | .halt => ⟨"HALT", 0xF025, 0xF0FF⟩
  | .inu16 => ⟨"INU16", 0xF026, 0xF0FF⟩
  | .outu16 => ⟨"OUTU16", 0xF027, 0xF0FF⟩
  | .yld => ⟨"YLD", 0xF028, 0xF0FF⟩
  | .brk => ⟨"BRK", 0xF029, 0xF0FF⟩
  | .trapIllegal _ _ => ⟨"TRAP_ILLEGAL", 0xF000, 0xF000⟩

/-- An instruction whose bits are w, as spec/opcode_table.json numbers them, read by the decoder. Every
instruction is one 16-bit word (30 R100). -/
def decodeTableWord (nbits w : Nat) : Option Instr :=
  if nbits ≤ 16 then some (decode (BitVec.ofNat 16 (w % 2 ^ nbits))) else none

end Sys2Proof
end

