-- ==== Sys2Proof/Machine/Console.lean ====
section
/-! DEFINITION. The console port and the console traps (spec 43). -/

namespace Sys2Proof.Machine

/-- `ConIn()` and `ConInU16()`: take the next item (43 R171, R172). A blocking read of an empty `ConsoleIn` is
given the item the host then supplies, a free value (43 R177: "gives the step the item as an input"). Log
entries 5 and 6. -/
def State.conIn (s : State) : Word × State :=
  match s.consoleIn with
  | w :: rest => (w, { s with consoleIn := rest })
  | [] => (awaitedItem s.inputDraws, { s with inputDraws := s.inputDraws + 1 })

/-- The character a word outputs: its low 8 bits (43 R171). -/
def charOf (w : Word) : Byte := w.setWidth 8

/-- `ConOut(w)` (43 R171). -/
def State.conOut (s : State) (w : Word) : State := s.emit [charOf w]

/-- The code of a decimal digit. -/
def digitChar (d : Nat) : Byte := BitVec.ofNat 8 (48 + d)

/-- The five decimal digits of a word, leading zeros and all. -/
def fiveDigits (v : Word) : List Nat :=
  [v.toNat / 10000 % 10, v.toNat / 1000 % 10, v.toNat / 100 % 10, v.toNat / 10 % 10, v.toNat % 10]

/-- Drop leading zeros, but never the last digit. -/
def trimZeros : List Nat → List Nat
  | [] => []
  | [d] => [d]
  | d :: ds => if d = 0 then trimZeros ds else d :: ds

/-- The text of OUTU16: unsigned decimal without leading zeros, then a newline, code 10 (43 R172). Log
entry 7. -/
def decimalText (v : Word) : List Byte := (trimZeros (fiveDigits v)).map digitChar ++ [10]

/-- The walk of PUTS from an address, at most `fuel` words before the address wraps to 0x0000 (43 R175): the
characters it outputs, and the fault that ends it, if one does. Started with `stringFuel`, the walk is at
0x0000 when the fuel is spent, and the read there raises SegFault (20 R72). -/
def State.stringWalk (s : State) : Nat → Word → List Byte × Option Raised
  | 0, a => ([], some ⟨.segFault, a⟩)
  | fuel + 1, a =>
    match s.memRead a with
    | .error f => ([], some f)
    | .ok w =>
      if w = 0x0000 then ([], none)
      else
        let (cs, ending) := s.stringWalk fuel (a + 1)
        (charOf w :: cs, ending)

/-- How many words lie between an address and the wrap. -/
def stringFuel (a : Word) : Nat := 65536 - a.toNat

/-- The text of the string at a virtual address and how the walk ends (43 R175). -/
def State.stringAt (s : State) (a : Word) : List Byte × Option Raised := s.stringWalk (stringFuel a) a

/-- GETC (43 R173). -/
def execGetc (s : State) : Result :=
  .next (s.conIn.2.setReg trapReg s.conIn.1)

/-- OUT (43 R174). -/
def execOut (s : State) : Result :=
  .next (s.conOut (s.reg trapReg))

/-- PUTS (43 R175): the characters before a fault stay written. -/
def execPuts (s : State) : Result :=
  match s.stringAt (s.reg trapReg) with
  | (cs, none) => .next (s.emit cs)
  | (cs, some f) => .next ((s.emit cs).raise f)

/-- IN (43 R176). -/
def execIn (s : State) : Result :=
  .next ((s.conIn.2.setReg trapReg s.conIn.1).conOut s.conIn.1)

/-- PUTSP, the defined no-op (43 R178). -/
def execPutsp (s : State) : Result := .next s

/-- INU16 (43 R179). -/
def execInu16 (s : State) : Result :=
  .next (s.conIn.2.setReg trapReg s.conIn.1)

/-- OUTU16 (43 R180). -/
def execOutu16 (s : State) : Result :=
  .next (s.emit (decimalText (s.reg trapReg)))

/-- A TRAP outside the table raises IllegalTrap with the instruction word (43 R181, 60 R267). -/
def execTrapIllegal (ignored : BitVec 4) (vect : Byte) (s : State) : Result :=
  .next (s.raise ⟨.illegalTrap, trapWord ignored vect⟩)

end Sys2Proof.Machine
end

