-- ==== Sys2Proof/Machine/Control.lean ====
section
/-! DEFINITION. Branch, jump, call and the reserved opcodes (spec 42). -/

namespace Sys2Proof.Machine

/-- BR (42 R160). -/
def execBr (nzp : BitVec 3) (off : BitVec 9) (s : State) : Result :=
  .next (if s.branchTaken nzp then s.setRpc (s.pcRelative off) else s)

/-- JMP (42 R161). -/
def execJmp (base : Reg) (s : State) : Result :=
  .next (s.setRpc (s.reg base))

/-- JSR (42 R162). -/
def execJsr (off : BitVec 11) (s : State) : Result :=
  .next ((s.setReg linkReg s.rpc).setRpc (s.pcRelative off))

/-- JSRR (42 R163), in the order the parameter `JSRR_READS_BASE_FIRST` gives. -/
def execJsrr (base : Reg) (s : State) : Result :=
  if config.jsrrReadsBaseFirst then .next ((s.setReg linkReg s.rpc).setRpc (s.reg base))
  else .next ((s.setReg linkReg s.rpc).setRpc ((s.setReg linkReg s.rpc).reg base))

/-- What both reserved opcodes do: nothing (30 R110), under the parameter `RESERVED_OPCODE_IS_NOP`. -/
def State.reservedOpcode (s : State) : Result :=
  if config.reservedOpcodeIsNop then .next s else .refused .reservedOpcode

/-- Reserved opcode 8 (42 R166). -/
def execRsv8 (s : State) : Result := s.reservedOpcode

/-- Reserved opcode 13 (42 R167). -/
def execRsv13 (s : State) : Result := s.reservedOpcode

end Sys2Proof.Machine
end

