-- ==== Sys2Proof/Machine/LoadStore.lean ====
section
/-! DEFINITION. Loads, stores and LEA (spec 41). -/

namespace Sys2Proof.Machine

/-- Finish a load with what its read gave: DR and RCND, or the fault with neither written (41 R149). -/
def State.finishLoad (s : State) (dr : Reg) : Except Raised Word → Result
  | .error f => .next (s.raise f)
  | .ok v => .next (s.define dr v)

/-- Finish a store with what its write gave, or the fault with nothing written (41 R149). -/
def State.finishStore (s : State) : Except Raised State → Result
  | .error f => .next (s.raise f)
  | .ok t => .next t

/-- The indirect mode: the pointer is read first and is itself a virtual address (41 R142, R146). -/
def State.readIndirect (s : State) (pa : Word) : Except Raised Word :=
  match s.memRead pa with
  | .error f => .error f
  | .ok ea => s.memRead ea

/-- The store side of the indirect mode (41 R146). -/
def State.writeIndirect (s : State) (pa v : Word) : Except Raised State :=
  match s.memRead pa with
  | .error f => .error f
  | .ok ea => s.memWrite ea v

/-- LD (41 R141). -/
def execLd (dr : Reg) (off : BitVec 9) (s : State) : Result :=
  s.finishLoad dr (s.memRead (s.pcRelative off))

/-- LDI (41 R142). -/
def execLdi (dr : Reg) (off : BitVec 9) (s : State) : Result :=
  s.finishLoad dr (s.readIndirect (s.pcRelative off))

/-- LDR (41 R143). -/
def execLdr (dr base : Reg) (off : BitVec 6) (s : State) : Result :=
  s.finishLoad dr (s.memRead (s.basePlus base off))

/-- LEA (41 R144). -/
def execLea (dr : Reg) (off : BitVec 9) (s : State) : Result :=
  .next (s.define dr (s.pcRelative off))

/-- ST (41 R145). -/
def execSt (sr : Reg) (off : BitVec 9) (s : State) : Result :=
  s.finishStore (s.memWrite (s.pcRelative off) (s.reg sr))

/-- STI (41 R146). -/
def execSti (sr : Reg) (off : BitVec 9) (s : State) : Result :=
  s.finishStore (s.writeIndirect (s.pcRelative off) (s.reg sr))

/-- STR (41 R147). -/
def execStr (sr base : Reg) (off : BitVec 6) (s : State) : Result :=
  s.finishStore (s.memWrite (s.basePlus base off) (s.reg sr))

end Sys2Proof.Machine
end

