-- ==== Sys2Proof/Machine/OsTraps.lean ====
section
/-! DEFINITION. The scheduler (spec 47) and the OS traps YLD, BRK, HALT (spec 44). -/

namespace Sys2Proof.Machine

/-- The candidates of the scan in order: (cur + 1 + k) mod total for k from 0 to total - 1, on integers
(47 R241). -/
def Mem.candidates (m : Mem) (cur : Word) : List Word :=
  (List.range (Mem.procCount m).toNat).map
    fun k => BitVec.ofNat 16 ((cur.toNat + 1 + k) % (Mem.procCount m).toNat)

/-- `NextRunnable(cur)` where `PROC_COUNT` is not 0 (47 R241). Where it is 0 the rule defines no scan, and YLD and
HALT do not use what this answers there (log entry 9). -/
def Mem.nextRunnable (m : Mem) (cur : Word) : Option Word :=
  (Mem.candidates m cur).find? fun p => Mem.pcbPid m p != noPid

/-- `Yield()` (47 R242). -/
def State.yield (s : State) : State :=
  let t := s.save (Mem.curPid s.mem)
  match Mem.nextRunnable t.mem (Mem.curPid s.mem) with
  | some next => if next = Mem.curPid s.mem then t else t.load next
  | none => t

/-- The first half of `Halt()`: all 32 pages freed quietly, the PCB marked terminated (47 R243). -/
def State.terminate (s : State) : State :=
  s.setMem
    (Mem.setPhys (Mem.freePages s.mem s.ptbr pages) (pcbAddr (Mem.curPid s.mem) 0) noPid)

/-- `Halt()` (47 R243). -/
def State.halt (s : State) : State :=
  match Mem.nextRunnable s.terminate.mem (Mem.curPid s.mem) with
  | some next => s.terminate.load next
  | none => s.terminate.setRun false

/-- The scan is defined in this state: its total, `PROC_COUNT`, is not 0 (47 R241). -/
def State.scanDefined (s : State) : Bool := Mem.procCount s.mem != 0

/-- The end of a BRK: the new memory, or the diagnostic of the failure (44 R191). -/
def State.finishBrk (s : State) : Except Failure Mem → State
  | .ok m => s.setMem m
  | .error e => s.diag e

/-- What BRK does (44 R191). -/
def State.heapBreak (s : State) : State :=
  let req := s.reg trapReg
  if brkAllocates req then
    if isReservedPage (brkVpn req) then s.diag .reservedRegion
    else s.finishBrk (Mem.allocate s.mem s.ptbr (brkVpn req) (brkRead req) (brkWrite req))
  else s.finishBrk (Mem.free s.mem (brkVpn req) s.ptbr)

/-- YLD (44 R190). Whether the scan is defined is asked of the state in which Yield scans, after the save; where it
is not, the fault is THE MODEL'S CHOICE (log entry 9). -/
def execYld (s : State) : Result :=
  if (s.save (Mem.curPid s.mem)).scanDefined then .next s.yield else .fault .scanOverNoProcesses

/-- BRK (44 R191). -/
def execBrk (s : State) : Result := .next s.heapBreak

/-- HALT (44 R192). Whether the scan is defined is asked of the state in which Halt scans, after the frees and the
write of the pid word; where it is not, the fault is THE MODEL'S CHOICE (log entry 9). -/
def execHalt (s : State) : Result :=
  if s.terminate.scanDefined then .next s.halt else .fault .scanOverNoProcesses

end Sys2Proof.Machine
end

