-- ==== Sys2Proof/Machine/Step.lean ====
section
/-! DEFINITION. The step (spec 30 R101). -/

namespace Sys2Proof.Machine

/-- One step: fetch, increment RPC, execute. A fault of the fetch is taken with RPC not incremented. While the
engine performs no step (RUN = 0 or a fault recorded) nothing changes (30 R101, 60 R268, R280). Log entry 8. -/
def step (s : State) : Host.Outcome State Fault Refusal :=
  if s.engineRuns then
    match s.fetch with
    | .error f => .next (s.raise f)
    | .ok w => exec (decode w) s.advance
  else .next s

/-- The state whose next step fetches and runs the word w. Every instruction is one word, so `nbits` is at most
16 (30 R100). Log entry 14. -/
def State.withFetchWord (s : State) (nbits w : Nat) : State :=
  s.placeWord (BitVec.ofNat 16 (w % 2 ^ nbits))

end Sys2Proof.Machine
end

