-- ==== Sys2Proof/Safety.lean ====
section
/-! DEFINITION. The terms claims use: what a change leaves alone, fault entry as the spec describes it, the
invariants (spec 10 R26, R48; 60 R266; 70 R312). -/

namespace Sys2Proof.Machine

/-! ## What a change leaves alone -/

/-- PTBR, RUN, FAULT, FADDR and the host's phase are unchanged. -/
structure SameControl (s t : State) : Prop where
  ptbr : t.ptbr = s.ptbr
  run : t.run = s.run
  fault : t.fault = s.fault
  faddr : t.faddr = s.faddr
  phase : t.phase = s.phase

/-- The three streams and the draws counter are unchanged. -/
structure SameStreams (s t : State) : Prop where
  consoleIn : t.consoleIn = s.consoleIn
  consoleOut : t.consoleOut = s.consoleOut
  diagOut : t.diagOut = s.diagOut
  inputDraws : t.inputDraws = s.inputDraws

/-- Every general register is unchanged. -/
def SameRegs (s t : State) : Prop := ∀ i : Reg, t.reg i = s.reg i

/-- Every general register but one is unchanged. -/
def SameRegsBut (r : Reg) (s t : State) : Prop := ∀ i : Reg, i ≠ r → t.reg i = s.reg i

/-- Every word of physical memory is unchanged. -/
def SameMemory (s t : State) : Prop := ∀ a : Word, t.phys a = s.phys a

/-- RCND is what `setcc(v)` makes it: N for a negative two's-complement number, Z for zero, P for a positive one
(10 R27, 40 R135). -/
def FlagsOfValue (v : Word) (t : State) : Prop :=
  (v.toInt < 0 → t.rcnd = 0b100) ∧ (v.toInt = 0 → t.rcnd = 0b010) ∧ (0 < v.toInt → t.rcnd = 0b001)

/-- The destination register gets the value, the flags follow it, and nothing else changes. -/
structure Defines (s : State) (dr : Reg) (v : Word) (t : State) : Prop where
  value : t.reg dr = v
  flags : FlagsOfValue v t
  regs : SameRegsBut dr s t
  rpc : t.rpc = s.rpc
  control : SameControl s t
  streams : SameStreams s t
  memory : SameMemory s t

/-- One word of physical memory gets the value, and nothing else changes. -/
structure StoresOnly (s : State) (pa v : Word) (t : State) : Prop where
  value : t.phys pa = v
  memory : ∀ a : Word, a ≠ pa → t.phys a = s.phys a
  regs : SameRegs s t
  rcnd : t.rcnd = s.rcnd
  rpc : t.rpc = s.rpc
  control : SameControl s t
  streams : SameStreams s t

/-- RPC gets the value, and nothing else changes. -/
structure JumpsOnly (s : State) (target : Word) (t : State) : Prop where
  rpc : t.rpc = target
  regs : SameRegs s t
  rcnd : t.rcnd = s.rcnd
  control : SameControl s t
  streams : SameStreams s t
  memory : SameMemory s t

/-- RPC gets the target, R7 the return address, and nothing else changes. -/
structure CallsOnly (s : State) (target : Word) (t : State) : Prop where
  rpc : t.rpc = target
  link : t.reg 7 = s.rpc
  regs : SameRegsBut 7 s t
  rcnd : t.rcnd = s.rcnd
  control : SameControl s t
  streams : SameStreams s t
  memory : SameMemory s t

/-- `ConsoleOut` gets more characters, and nothing else changes. -/
structure PrintsOnly (s : State) (cs : List Byte) (t : State) : Prop where
  consoleOut : t.consoleOut = s.consoleOut ++ cs
  regs : SameRegs s t
  rcnd : t.rcnd = s.rcnd
  rpc : t.rpc = s.rpc
  control : SameControl s t
  consoleIn : t.consoleIn = s.consoleIn
  diagOut : t.diagOut = s.diagOut
  inputDraws : t.inputDraws = s.inputDraws
  memory : SameMemory s t

/-- R0 gets a console item, `ConsoleIn` is left with `rest`, the draws counter with `draws`, `ConsoleOut` gets
the echo, and nothing else changes. -/
structure TakesInput (s : State) (w : Word) (rest : List Word) (draws : Nat) (echo : List Byte)
    (t : State) : Prop where
  value : t.reg 0 = w
  consoleIn : t.consoleIn = rest
  inputDraws : t.inputDraws = draws
  consoleOut : t.consoleOut = s.consoleOut ++ echo
  regs : SameRegsBut 0 s t
  rcnd : t.rcnd = s.rcnd
  rpc : t.rpc = s.rpc
  control : SameControl s t
  diagOut : t.diagOut = s.diagOut
  memory : SameMemory s t

/-- `DiagOut` gets one recoverable-failure record, and nothing else changes (60 R272). -/
structure ReportsOnly (s : State) (e : Failure) (t : State) : Prop where
  diagOut : t.diagOut = s.diagOut ++ [.recoverable e]
  regs : SameRegs s t
  rcnd : t.rcnd = s.rcnd
  rpc : t.rpc = s.rpc
  control : SameControl s t
  consoleIn : t.consoleIn = s.consoleIn
  consoleOut : t.consoleOut = s.consoleOut
  inputDraws : t.inputDraws = s.inputDraws
  memory : SameMemory s t

/-- Only memory changes: how is said beside it. -/
structure MemoryOnly (s t : State) : Prop where
  regs : SameRegs s t
  rcnd : t.rcnd = s.rcnd
  rpc : t.rpc = s.rpc
  control : SameControl s t
  streams : SameStreams s t

/-- Fault entry as 60 R266 describes it: FAULT (the code 60 R261 gives the fault), FADDR, RUN, one record; all registers and memory keep their
values. FAULT is written only if it is 0, which always holds when a step runs. -/
structure FaultEntry (s : State) (f : Raised) (t : State) : Prop where
  fault : s.fault = 0 → t.fault =
    match f.code with
    | .segFault => 1
    | .freeSpaceFault => 2
    | .readProtFault => 3
    | .writeProtFault => 4
    | .illegalTrap => 5
  faddr : t.faddr = f.info
  run : t.run = false
  diagOut : t.diagOut = s.diagOut ++ [.fatal f.code f.info]
  regs : SameRegs s t
  rcnd : t.rcnd = s.rcnd
  rpc : t.rpc = s.rpc
  ptbr : t.ptbr = s.ptbr
  phase : t.phase = s.phase
  consoleIn : t.consoleIn = s.consoleIn
  consoleOut : t.consoleOut = s.consoleOut
  inputDraws : t.inputDraws = s.inputDraws
  memory : SameMemory s t

/-! ## States of the machine -/

/-- The run has ended: RUN = 0 after Start (70 R312). -/
abbrev State.Ended (s : State) : Prop := s.phase = .started ∧ s.run = false

/-- Stopped: RUN = 0 and FAULT = 0 after a Halt with no successor (00 R19, 60 R280). After Start only such a Halt and
a fatal fault clear RUN (10 R30), and a fault sets FAULT. -/
abbrev State.Stopped (s : State) : Prop := s.Ended ∧ s.fault = 0

/-- Faulted: FAULT is not 0 (00 R19). -/
abbrev State.Faulted (s : State) : Prop := s.fault ≠ 0

/-- Exactly one of N, Z, P is set (10 R26). -/
abbrev State.OneFlag (s : State) : Prop := s.rcnd = 0b100 ∨ s.rcnd = 0b010 ∨ s.rcnd = 0b001

/-- The frame's bitmap bit is 1: bit f mod 16 of the word at 0x0003 + f div 16 (10 R43). -/
abbrev FrameFree (s : State) (f : Page) : Prop :=
  (s.phys (0x0003 + BitVec.ofNat 16 (f.toNat / 16))).getLsbD (f.toNat % 16) = true

/-- The entry of virtual page v in the page table of pid p: the word at 0x1000 + 32 p + v (10 R46). -/
def State.pteOf (s : State) (p : Word) (v : Page) : Word := s.phys (0x1000 + 32 * p + v.setWidth 16)

/-- That entry's V bit is 1 (10 R47). -/
abbrev State.Maps (s : State) (p : Word) (v : Page) : Prop := (s.pteOf p v).getLsbD 0 = true

/-- That entry's PFN, bits 15:11 (10 R47). -/
def State.frameOf (s : State) (p : Word) (v : Page) : Page := (s.pteOf p v).extractLsb' 11 5

/-- `PROC_COUNT` as a number (10 R41). -/
def State.count (s : State) : Nat := (s.phys 0x0001).toNat

/-- `PCB[p].pid` (10 R44). -/
def State.pidWord (s : State) (p : Word) : Word := s.phys (0x0005 + 3 * p)

/-- `PCB[p].pc` (10 R44). -/
def State.savedPc (s : State) (p : Word) : Word := s.phys (0x0005 + 3 * p + 1)

/-- `PCB[p].ptbr` (10 R44). -/
def State.savedPtbr (s : State) (p : Word) : Word := s.phys (0x0005 + 3 * p + 2)

/-- The current pid is that of a live process and PTBR is its table (10 R29, R49). -/
abbrev State.CurrentIsLive (s : State) : Prop :=
  (s.phys 0x0000).toNat < s.count ∧ s.pidWord (s.phys 0x0000) = s.phys 0x0000 ∧
    s.ptbr = 0x1000 + 32 * s.phys 0x0000

/-- The invariants over the memory-resident state: 10 R48 (a) to (e), with what 10 R29, R41, R45 and 46 R228 add,
without which no step keeps them. 10 R48 (f) follows and is a statement of its own. -/
structure State.OsInv (s : State) : Prop where
  /-- `PROC_COUNT` is at most 64 (10 R41). -/
  count : s.count ≤ 64
  /-- (a), one direction, and (b): a mapped frame is marked used and is 3 or more. -/
  mappedUsed : ∀ (p : Word) (v : Page), p.toNat < s.count → s.Maps p v →
    3 ≤ (s.frameOf p v).toNat ∧ ¬ FrameFree s (s.frameOf p v)
  /-- (a), the other direction: a frame from 3 on that is marked used is mapped. -/
  usedMapped : ∀ f : Page, 3 ≤ f.toNat → ¬ FrameFree s f →
    ∃ (p : Word) (v : Page), p.toNat < s.count ∧ s.Maps p v ∧ s.frameOf p v = f
  /-- (b): frames 0, 1, 2 are always used. -/
  reservedUsed : ∀ f : Page, f.toNat < 3 → ¬ FrameFree s f
  /-- (c): no two valid entries name one frame. -/
  unshared : ∀ (p q : Word) (v u : Page), p.toNat < s.count → q.toNat < s.count → s.Maps p v → s.Maps q u →
    s.frameOf p v = s.frameOf q u → p = q ∧ v = u
  /-- (d): no reserved virtual page is mapped. -/
  reservedUnmapped : ∀ (p : Word) (v : Page), p.toNat < s.count → v.toNat < 3 → ¬ s.Maps p v
  /-- (e): a terminated pid maps nothing. -/
  deadUnmapped : ∀ (p : Word) (v : Page), p.toNat < s.count → s.pidWord p = 0xFFFF → ¬ s.Maps p v
  /-- No table of a pid not yet created maps anything (46 R225). -/
  beyondUnmapped : ∀ (p : Word) (v : Page), s.count ≤ p.toNat → p.toNat < 64 → ¬ s.Maps p v
  /-- A slot in use holds its own pid or 0xFFFF (10 R45). -/
  pidWords : ∀ p : Word, p.toNat < s.count → s.pidWord p = p ∨ s.pidWord p = 0xFFFF
  /-- The saved PTBR is that of the pid (46 R228). -/
  savedPtbrs : ∀ p : Word, p.toNat < s.count → s.savedPtbr p = 0x1000 + 32 * p
  /-- While the machine runs, the current pid is live and PTBR is its table (10 R29, R49). -/
  running : s.run = true → s.CurrentIsLive

/-- The invariants of the machine with its host: those of the OS state, and what the boot protocol adds
(70 R306, R309, R310). -/
structure State.MachineInv (s : State) : Prop where
  os : s.OsInv
  /-- RUN = 1 only after Start. -/
  runs : s.run = true → s.phase = .started
  /-- After a Load, before Start, the current pid is live and PTBR is its table. -/
  loaded : s.phase = .loaded → s.CurrentIsLive

/-- How many frames are marked free (10 R48 (f)). -/
def State.freeFrames (s : State) : Nat := (pages.filter fun f => decide (FrameFree s f)).length

/-- How many entries of the 64 page tables are valid (10 R48 (f)). -/
def State.validEntries (s : State) : Nat :=
  ((List.range 64).map fun p =>
    (pages.filter fun v => decide (s.Maps (BitVec.ofNat 16 p) v)).length).sum

/-- The run ended well: every created process has executed HALT, nothing is mapped, the bitmap is as after Reset
(70 R312). -/
structure State.EndedWell (s : State) : Prop where
  stopped : s.Stopped
  terminated : ∀ p : Word, p.toNat < s.count → s.pidWord p = 0xFFFF
  unmapped : ∀ (p : Word) (v : Page), p.toNat < 64 → ¬ s.Maps p v
  bitmap : s.phys 0x0003 = 0xFFF8 ∧ s.phys 0x0004 = 0xFFFF

/-- The run ended badly (70 R312). -/
abbrev State.EndedBadly (s : State) : Prop := s.Ended ∧ s.Faulted

end Sys2Proof.Machine
end

