-- ==== Sys2Proof/Certificates/Slice0/Obligations.lean ====
section
/-! DEFINITION. The statements for the provers. Each cites the rules of spec/ it states; "log <n>" is
notes/assumptions/<n>.md. The instruction statements are about `exec`, the execute part of a step: the state it
is given has RPC already incremented (10 R24). -/

open Sys2Proof Sys2Proof.Machine

/-! ## Encoding -/

/-- Decoding the canonical word of a well-formed instruction gives the instruction back, with every operand at
every value. 30 R103 to R107, R114. -/
def Obligations.DecodeEncodeRoundTrip : Prop :=
  ∀ i : Instr, WellFormed i = true → decode (encode i) = i

/-- Every word matches the row of the instruction it decodes to, and no other row but TRAP_ILLEGAL, which is tried
last. 30 R114. -/
def Obligations.ExactlyOneRowMatchesEveryWord : Prop :=
  ∀ w : Word, (rowOf (decode w)).matches w = true ∧
    ∀ i : Instr, WellFormed i = true → (rowOf i).matches w = true →
      (rowOf i).mnemonic ≠ "TRAP_ILLEGAL" → rowOf (decode w) = rowOf i

/-- The bits 30 R108 lists as ignored, by instruction. -/
def Sys2Proof.ignoredMask : Instr → Word
  | .add _ _ _ | .and _ _ _ => 0b0000000000011000
  | .not _ _ => 0b0000000000111111
  | .jmp _ => 0b0000111000111111
  | .jsrr _ => 0b0000011000111111
  | .getc | .out | .puts | .inEcho | .putsp | .halt | .inu16 | .outu16 | .yld | .brk => 0b0000111100000000
  | .rsv8 | .rsv13 => 0b0000111111111111
  | _ => 0

/-- Changing ignored bits does not change what a word decodes to; the encoder writes them as 0, in NOT as 1. Of an
illegal TRAP word bits 11:8 are kept, because the fault records the whole word (43 R181). 30 R108. -/
def Obligations.IgnoredBitsDoNotMatter : Prop :=
  (∀ w w' : Word, w &&& ~~~ ignoredMask (decode w) = w' &&& ~~~ ignoredMask (decode w) → decode w' = decode w) ∧
  (∀ i : Instr, WellFormed i = true →
    encode i &&& ignoredMask i = match i with | .not _ _ => 0b111111 | _ => 0)

/-- The decoder never gives an ill-formed instruction. 30 R102, R109. -/
def Obligations.DecodedInstructionsAreWellFormed : Prop :=
  ∀ w : Word, WellFormed (decode w) = true

/-- Words the spec works out: 40, 41, 42, 43, 95 part 2. A check of a few words, no more. -/
def Obligations.SpecExampleWordsDecode : Prop :=
  decode 0x1283 = .add 1 2 3 ∧ decode 0x127F = .addi 1 1 0b11111 ∧ decode 0x5020 = .andi 0 0 0 ∧
  decode 0x92BF = .not 1 2 ∧ decode 0x2202 = .ld 1 2 ∧ decode 0x7281 = .str 1 2 1 ∧
  decode 0x03FD = .br 0b001 0b111111101 ∧ decode 0x4804 = .jsr 4 ∧ decode 0x41C0 = .jsrr 7 ∧
  decode 0xC1C0 = Instr.ret ∧ decode 0xFF24 = .putsp ∧ decode 0xF029 = .brk ∧ decode 0xF02A = .trapIllegal 0 0x2A

/-! ## ALU -/

/-- ADD, register form. 40 R130. -/
def Obligations.AddWritesSumAndFlags : Prop :=
  (∀ (dr sr1 sr2 : Reg) (x : BitVec 2),
    decode (0b0001#4 ++ dr ++ sr1 ++ 0b0#1 ++ x ++ sr2 : BitVec 16) = .add dr sr1 sr2) ∧
  ∀ (dr sr1 sr2 : Reg) (s : State), ∃ t, exec (.add dr sr1 sr2) s = .next t ∧
    Defines s dr (BitVec.ofNat 16 (((s.reg sr1).toNat + (s.reg sr2).toNat) % 65536)) t

/-- ADD, immediate form: the immediate is a signed number, -16 to 15. 40 R131. -/
def Obligations.AddImmediateWritesSumAndFlags : Prop :=
  (∀ (dr sr1 : Reg) (imm : BitVec 5),
    decode (0b0001#4 ++ dr ++ sr1 ++ 0b1#1 ++ imm : BitVec 16) = .addi dr sr1 imm) ∧
  ∀ (dr sr1 : Reg) (imm : BitVec 5) (s : State), ∃ t, exec (.addi dr sr1 imm) s = .next t ∧
    Defines s dr (BitVec.ofInt 16 ((s.reg sr1).toNat + imm.toInt)) t

/-- AND, register form. 40 R132. -/
def Obligations.AndWritesConjunctionAndFlags : Prop :=
  (∀ (dr sr1 sr2 : Reg) (x : BitVec 2),
    decode (0b0101#4 ++ dr ++ sr1 ++ 0b0#1 ++ x ++ sr2 : BitVec 16) = .and dr sr1 sr2) ∧
  ∀ (dr sr1 sr2 : Reg) (s : State), ∃ t, exec (.and dr sr1 sr2) s = .next t ∧
    ∃ v : Word, (∀ j < 16, v.getLsbD j = ((s.reg sr1).getLsbD j && (s.reg sr2).getLsbD j)) ∧ Defines s dr v t

/-- AND, immediate form: bits 15 to 5 of the immediate are copies of its bit 4. 40 R133. -/
def Obligations.AndImmediateWritesConjunctionAndFlags : Prop :=
  (∀ (dr sr1 : Reg) (imm : BitVec 5),
    decode (0b0101#4 ++ dr ++ sr1 ++ 0b1#1 ++ imm : BitVec 16) = .andi dr sr1 imm) ∧
  ∀ (dr sr1 : Reg) (imm : BitVec 5) (s : State), ∃ t, exec (.andi dr sr1 imm) s = .next t ∧
    ∃ v : Word, (∀ j < 16, v.getLsbD j = ((s.reg sr1).getLsbD j && imm.getLsbD (min j 4))) ∧ Defines s dr v t

/-- NOT: the complement, 0xFFFF minus the source. 40 R134. -/
def Obligations.NotWritesComplementAndFlags : Prop :=
  (∀ (dr sr1 : Reg) (x : BitVec 6), decode (0b1001#4 ++ dr ++ sr1 ++ x : BitVec 16) = .not dr sr1) ∧
  ∀ (dr sr1 : Reg) (s : State), ∃ t, exec (.not dr sr1) s = .next t ∧
    Defines s dr (BitVec.ofNat 16 (0xFFFF - (s.reg sr1).toNat)) t

/-! ## Translation -/

/-- What a translated read of va does: reserved page, valid bit and R bit are checked in this order, and a success
gives the word at (PFN << 11) | offset. 20 R66, R70, R72; 60 R262, R263, R264. -/
def Obligations.TranslatedReadChecksInOrder : Prop :=
  ∀ (s : State) (va pte : Word), pte = s.phys (s.ptbr + BitVec.ofNat 16 (va.toNat / 2048)) →
    s.memRead va =
      if va.toNat / 2048 < 3 then .error ⟨.segFault, va⟩
      else if pte.getLsbD 0 = false then .error ⟨.freeSpaceFault, va⟩
      else if pte.getLsbD 1 = false then .error ⟨.readProtFault, va⟩
      else .ok (s.phys (BitVec.ofNat 16 (pte.toNat / 2048 * 2048 + va.toNat % 2048)))

/-- What a translated write to va does: the same checks with the W bit, and a success changes the one word.
20 R71, R72; 60 R262, R263, R265. -/
def Obligations.TranslatedWriteChecksInOrder : Prop :=
  ∀ (s : State) (va v pte : Word), pte = s.phys (s.ptbr + BitVec.ofNat 16 (va.toNat / 2048)) →
    if va.toNat / 2048 < 3 then s.memWrite va v = .error ⟨.segFault, va⟩
    else if pte.getLsbD 0 = false then s.memWrite va v = .error ⟨.freeSpaceFault, va⟩
    else if pte.getLsbD 2 = false then s.memWrite va v = .error ⟨.writeProtFault, va⟩
    else ∃ t, s.memWrite va v = .ok t ∧
      StoresOnly s (BitVec.ofNat 16 (pte.toNat / 2048 * 2048 + va.toNat % 2048)) v t

/-! ## Loads, stores, LEA -/

/-- LD, whole: the word at RPC + offset, or the fault of its read with nothing else changed. 41 R141. -/
def Obligations.LdLoadsPcRelativeOrFaults : Prop :=
  (∀ (dr : Reg) (off : BitVec 9), decode (0b0010#4 ++ dr ++ off : BitVec 16) = .ld dr off) ∧
  ∀ (dr : Reg) (off : BitVec 9) (s : State) (ea : Word), ea = s.rpc + BitVec.ofInt 16 off.toInt →
    (∀ v, s.memRead ea = .ok v → ∃ t, exec (.ld dr off) s = .next t ∧ Defines s dr v t) ∧
    (∀ f, s.memRead ea = .error f → ∃ t, exec (.ld dr off) s = .next t ∧ FaultEntry s f t)

/-- LDI, whole: the pointer is read first, then the data; the first read that fails decides the fault.
41 R142. -/
def Obligations.LdiLoadsThroughPointerOrFaults : Prop :=
  (∀ (dr : Reg) (off : BitVec 9), decode (0b1010#4 ++ dr ++ off : BitVec 16) = .ldi dr off) ∧
  ∀ (dr : Reg) (off : BitVec 9) (s : State) (pa : Word), pa = s.rpc + BitVec.ofInt 16 off.toInt →
    (∀ ea v, s.memRead pa = .ok ea → s.memRead ea = .ok v →
      ∃ t, exec (.ldi dr off) s = .next t ∧ Defines s dr v t) ∧
    (∀ f, s.memRead pa = .error f → ∃ t, exec (.ldi dr off) s = .next t ∧ FaultEntry s f t) ∧
    (∀ ea f, s.memRead pa = .ok ea → s.memRead ea = .error f →
      ∃ t, exec (.ldi dr off) s = .next t ∧ FaultEntry s f t)

/-- LDR, whole: the base register is read before DR is written, and is not modified unless it is DR. 41 R143. -/
def Obligations.LdrLoadsBasePlusOffsetOrFaults : Prop :=
  (∀ (dr base : Reg) (off : BitVec 6),
    decode (0b0110#4 ++ dr ++ base ++ off : BitVec 16) = .ldr dr base off) ∧
  ∀ (dr base : Reg) (off : BitVec 6) (s : State) (ea : Word),
    ea = s.reg base + BitVec.ofInt 16 off.toInt →
    (∀ v, s.memRead ea = .ok v → ∃ t, exec (.ldr dr base off) s = .next t ∧ Defines s dr v t) ∧
    (∀ f, s.memRead ea = .error f → ∃ t, exec (.ldr dr base off) s = .next t ∧ FaultEntry s f t)

/-- LEA: the address itself, with its flags; no memory access. 41 R144. -/
def Obligations.LeaWritesAddressAndFlags : Prop :=
  (∀ (dr : Reg) (off : BitVec 9), decode (0b1110#4 ++ dr ++ off : BitVec 16) = .lea dr off) ∧
  ∀ (dr : Reg) (off : BitVec 9) (s : State), ∃ t, exec (.lea dr off) s = .next t ∧
    Defines s dr (s.rpc + BitVec.ofInt 16 off.toInt) t

/-- ST, whole: the one word at the translated address, or the fault with nothing stored. 41 R145. -/
def Obligations.StStoresPcRelativeOrFaults : Prop :=
  (∀ (sr : Reg) (off : BitVec 9), decode (0b0011#4 ++ sr ++ off : BitVec 16) = .st sr off) ∧
  ∀ (sr : Reg) (off : BitVec 9) (s : State) (ea : Word), ea = s.rpc + BitVec.ofInt 16 off.toInt →
    (∀ pa, s.translate .write ea = .ok pa →
      ∃ t, exec (.st sr off) s = .next t ∧ StoresOnly s pa (s.reg sr) t) ∧
    (∀ f, s.translate .write ea = .error f → ∃ t, exec (.st sr off) s = .next t ∧ FaultEntry s f t)

/-- STI, whole: the pointer needs read permission, the target write permission. 41 R146. -/
def Obligations.StiStoresThroughPointerOrFaults : Prop :=
  (∀ (sr : Reg) (off : BitVec 9), decode (0b1011#4 ++ sr ++ off : BitVec 16) = .sti sr off) ∧
  ∀ (sr : Reg) (off : BitVec 9) (s : State) (ptr : Word), ptr = s.rpc + BitVec.ofInt 16 off.toInt →
    (∀ ea pa, s.memRead ptr = .ok ea → s.translate .write ea = .ok pa →
      ∃ t, exec (.sti sr off) s = .next t ∧ StoresOnly s pa (s.reg sr) t) ∧
    (∀ f, s.memRead ptr = .error f → ∃ t, exec (.sti sr off) s = .next t ∧ FaultEntry s f t) ∧
    (∀ ea f, s.memRead ptr = .ok ea → s.translate .write ea = .error f →
      ∃ t, exec (.sti sr off) s = .next t ∧ FaultEntry s f t)

/-- STR, whole. 41 R147. -/
def Obligations.StrStoresBasePlusOffsetOrFaults : Prop :=
  (∀ (sr base : Reg) (off : BitVec 6),
    decode (0b0111#4 ++ sr ++ base ++ off : BitVec 16) = .str sr base off) ∧
  ∀ (sr base : Reg) (off : BitVec 6) (s : State) (ea : Word),
    ea = s.reg base + BitVec.ofInt 16 off.toInt →
    (∀ pa, s.translate .write ea = .ok pa →
      ∃ t, exec (.str sr base off) s = .next t ∧ StoresOnly s pa (s.reg sr) t) ∧
    (∀ f, s.translate .write ea = .error f → ∃ t, exec (.str sr base off) s = .next t ∧ FaultEntry s f t)

/-! ## Control -/

/-- BR: taken when a flag that is set has its mask bit set; mask 000 never branches, mask 111 always does when one
flag is set. 42 R160. -/
def Obligations.BrBranchesOnMaskedFlag : Prop :=
  (∀ (n z p : BitVec 1) (off : BitVec 9),
    decode (0b0000#4 ++ n ++ z ++ p ++ off : BitVec 16) = .br (n ++ z ++ p : BitVec 3) off) ∧
  ∀ (nzp : BitVec 3) (off : BitVec 9) (s : State), ∃ t, exec (.br nzp off) s = .next t ∧
    JumpsOnly s
      (if (nzp.getLsbD 2 && s.rcnd.getLsbD 2) || (nzp.getLsbD 1 && s.rcnd.getLsbD 1) ||
          (nzp.getLsbD 0 && s.rcnd.getLsbD 0)
        then s.rpc + BitVec.ofInt 16 off.toInt else s.rpc) t ∧
    (nzp = 0b000 → t.rpc = s.rpc) ∧
    (nzp = 0b111 → s.OneFlag → t.rpc = s.rpc + BitVec.ofInt 16 off.toInt)

/-- JMP, and RET with base R7. That a bad target faults at the next fetch is FailedFetchRaisesItsFault with
TranslatedReadChecksInOrder. 42 R161. -/
def Obligations.JmpGoesToBaseRegister : Prop :=
  (∀ (x : BitVec 3) (base : Reg) (y : BitVec 6),
    decode (0b1100#4 ++ x ++ base ++ y : BitVec 16) = .jmp base) ∧
  decode 0xC1C0 = .jmp 7 ∧
  ∀ (base : Reg) (s : State), ∃ t, exec (.jmp base) s = .next t ∧ JumpsOnly s (s.reg base) t

/-- JSR: R7 gets the address of the next instruction, RPC the target; the flags do not change. 42 R162. -/
def Obligations.JsrSavesReturnAddressAndJumps : Prop :=
  (∀ off : BitVec 11, decode (0b0100#4 ++ 0b1#1 ++ off : BitVec 16) = .jsr off) ∧
  ∀ (off : BitVec 11) (s : State), ∃ t, exec (.jsr off) s = .next t ∧
    CallsOnly s (s.rpc + BitVec.ofInt 16 off.toInt) t

/-- JSRR: as JSR with the target in a register, read before R7 is written, so that JSRR R7 goes to the old R7.
42 R163. -/
def Obligations.JsrrReadsBaseBeforeLink : Prop :=
  (∀ (x : BitVec 2) (base : Reg) (y : BitVec 6),
    decode (0b0100#4 ++ 0b0#1 ++ x ++ base ++ y : BitVec 16) = .jsrr base) ∧
  ∀ (base : Reg) (s : State), ∃ t, exec (.jsrr base) s = .next t ∧ CallsOnly s (s.reg base) t

/-- The reserved opcodes 8 and 13 change nothing. 42 R166, R167. -/
def Obligations.ReservedOpcodesChangeNothing : Prop :=
  (∀ x : BitVec 12, decode (0b1000#4 ++ x : BitVec 16) = .rsv8) ∧
  (∀ x : BitVec 12, decode (0b1101#4 ++ x : BitVec 16) = .rsv13) ∧
  ∀ s : State, exec .rsv8 s = .next s ∧ exec .rsv13 s = .next s

/-! ## TRAP and the console -/

/-- A TRAP outside 0x20 to 0x29 raises IllegalTrap with the instruction word in FADDR; no other word does.
30 R109, 43 R181, 60 R267. -/
def Obligations.TrapOutsideTableRaisesIllegalTrap : Prop :=
  (∀ (w : Word), (∃ x v, decode w = .trapIllegal x v) ↔
    w.toNat / 4096 = 15 ∧ (w.toNat % 256 < 0x20 ∨ 0x29 < w.toNat % 256)) ∧
  (∀ (x : BitVec 4) (v : Byte), (v.toNat < 0x20 ∨ 0x29 < v.toNat) →
    decode (0b1111#4 ++ x ++ v : BitVec 16) = .trapIllegal x v) ∧
  ∀ (x : BitVec 4) (v : Byte) (s : State), ∃ t, exec (.trapIllegal x v) s = .next t ∧
    FaultEntry s ⟨.illegalTrap, (0b1111#4 ++ x ++ v : BitVec 16)⟩ t

/-- GETC takes the next item into R0 without echo. 43 R173. -/
def Obligations.GetcTakesNextItem : Prop :=
  (∀ x : BitVec 4, decode (0b1111#4 ++ x ++ 0x20#8 : BitVec 16) = .getc) ∧
  ∀ (s : State) (w : Word) (rest : List Word), s.consoleIn = w :: rest →
    ∃ t, exec .getc s = .next t ∧ TakesInput s w rest s.inputDraws [] t

/-- IN takes the next item into R0 and echoes its low 8 bits. 43 R176. -/
def Obligations.InTakesNextItemAndEchoes : Prop :=
  (∀ x : BitVec 4, decode (0b1111#4 ++ x ++ 0x23#8 : BitVec 16) = .inEcho) ∧
  ∀ (s : State) (w : Word) (rest : List Word), s.consoleIn = w :: rest →
    ∃ t, exec .inEcho s = .next t ∧ TakesInput s w rest s.inputDraws [BitVec.ofNat 8 (w.toNat % 256)] t

/-- INU16 takes the next item, a number the host has parsed, into R0. 43 R179. -/
def Obligations.Inu16TakesNextItem : Prop :=
  (∀ x : BitVec 4, decode (0b1111#4 ++ x ++ 0x26#8 : BitVec 16) = .inu16) ∧
  ∀ (s : State) (w : Word) (rest : List Word), s.consoleIn = w :: rest →
    ∃ t, exec .inu16 s = .next t ∧ TakesInput s w rest s.inputDraws [] t

/-- With no item supplied yet, the three input traps take the item the host then supplies: some word, the free
value of this draw. THE MODEL'S CHOICE between the two treatments 43 R177 allows: log 5, 6. It holds for every
value of the draws counter and of the free value. -/
def Obligations.BlockedInputTakesAwaitedItem : Prop :=
  ∀ (s : State), s.consoleIn = [] →
    (∃ t, exec .getc s = .next t ∧ TakesInput s (awaitedItem s.inputDraws) [] (s.inputDraws + 1) [] t) ∧
    (∃ t, exec .inEcho s = .next t ∧ TakesInput s (awaitedItem s.inputDraws) [] (s.inputDraws + 1)
      [BitVec.ofNat 8 ((awaitedItem s.inputDraws).toNat % 256)] t) ∧
    (∃ t, exec .inu16 s = .next t ∧ TakesInput s (awaitedItem s.inputDraws) [] (s.inputDraws + 1) [] t)

/-- OUT appends the low 8 bits of R0. 43 R174. -/
def Obligations.OutAppendsLowByte : Prop :=
  (∀ x : BitVec 4, decode (0b1111#4 ++ x ++ 0x21#8 : BitVec 16) = .out) ∧
  ∀ s : State, ∃ t, exec .out s = .next t ∧ PrintsOnly s [BitVec.ofNat 8 ((s.reg 0).toNat % 256)] t

/-- OUTU16 appends the decimal text of R0 read as unsigned, without leading zeros, and a newline (code 10). That
the text and not an event is recorded, and that the digit d is the character 48 + d, is THE MODEL'S CHOICE: log 7; the
bytes of program P6 (95) agree. 43 R172, R180. -/
def Obligations.Outu16AppendsDecimalText : Prop :=
  (∀ x : BitVec 4, decode (0b1111#4 ++ x ++ 0x27#8 : BitVec 16) = .outu16) ∧
  ∀ s : State, ∃ (t : State) (ds : List Nat), exec .outu16 s = .next t ∧
    PrintsOnly s (ds.map (fun d => BitVec.ofNat 8 (48 + d)) ++ [10]) t ∧
    (∀ d ∈ ds, d < 10) ∧ Nat.ofDigits 10 ds.reverse = (s.reg 0).toNat ∧
    ds ≠ [] ∧ (ds.head? = some 0 → ds = [0])

/-- PUTSP is the defined no-op. 43 R178. -/
def Obligations.PutspChangesNothing : Prop :=
  (∀ x : BitVec 4, decode (0b1111#4 ++ x ++ 0x24#8 : BitVec 16) = .putsp) ∧
  ∀ s : State, exec .putsp s = .next s

/-- PUTS: when the words from R0 on are readable and not null up to a null word, their low 8 bits are appended;
when a read fails before a null word, the characters before it are appended and the fault is raised; and one of the
two always comes, after at most 59392 words. 43 R175. -/
def Obligations.PutsWritesStringOrFaults : Prop :=
  (∀ x : BitVec 4, decode (0b1111#4 ++ x ++ 0x22#8 : BitVec 16) = .puts) ∧
  (∀ (s : State) (ws : List Word),
    (∀ k w, ws[k]? = some w → w ≠ 0 ∧ s.memRead (s.reg 0 + BitVec.ofNat 16 k) = .ok w) →
    (s.memRead (s.reg 0 + BitVec.ofNat 16 ws.length) = .ok 0 → ∃ t, exec .puts s = .next t ∧
      PrintsOnly s (ws.map fun w => BitVec.ofNat 8 (w.toNat % 256)) t) ∧
    (∀ f, s.memRead (s.reg 0 + BitVec.ofNat 16 ws.length) = .error f → ∃ u t, exec .puts s = .next t ∧
      PrintsOnly s (ws.map fun w => BitVec.ofNat 8 (w.toNat % 256)) u ∧ FaultEntry u f t)) ∧
  ∀ s : State, ∃ ws : List Word, ws.length ≤ 59392 ∧
    (∀ k w, ws[k]? = some w → w ≠ 0 ∧ s.memRead (s.reg 0 + BitVec.ofNat 16 k) = .ok w) ∧
    (s.memRead (s.reg 0 + BitVec.ofNat 16 ws.length) = .ok 0 ∨
      ∃ f, s.memRead (s.reg 0 + BitVec.ofNat 16 ws.length) = .error f)

/-! ## The OS traps -/

/-- The candidate number k of the scan from cur. 47 R241. -/
def Sys2Proof.Machine.State.scanCandidate (s : State) (cur : Word) (k : Nat) : Word :=
  BitVec.ofNat 16 ((cur.toNat + 1 + k) % s.count)

/-- YLD: the caller's RPC and PTBR are saved; if the first live candidate is another process it is loaded, else the
caller goes on. R0 to R7 and RCND do not change. 44 R190, 47 R242. -/
def Obligations.YldSavesAndSwitchesToNextLive : Prop :=
  (∀ x : BitVec 4, decode (0b1111#4 ++ x ++ 0x28#8 : BitVec 16) = .yld) ∧
  ∀ (s : State) (cur : Word), cur = s.phys 0x0000 → s.count ≤ 64 → cur.toNat < s.count →
    (∀ (k : Nat) (next : Word), k < s.count → next = s.scanCandidate cur k → s.pidWord next ≠ 0xFFFF →
      (∀ j < k, s.pidWord (s.scanCandidate cur j) = 0xFFFF) →
      if next = cur then
        ∃ t, exec .yld s = .next t ∧ MemoryOnly s t ∧ t.savedPc cur = s.rpc ∧ t.savedPtbr cur = s.ptbr ∧
          ∀ a : Word, a ≠ 0x0005 + 3 * cur + 1 → a ≠ 0x0005 + 3 * cur + 2 → t.phys a = s.phys a
      else
        ∃ t, exec .yld s = .next t ∧ t.rpc = s.savedPc next ∧ t.ptbr = s.savedPtbr next ∧
          t.phys 0x0000 = next ∧ t.savedPc cur = s.rpc ∧ t.savedPtbr cur = s.ptbr ∧
          (∀ a : Word, a ≠ 0x0000 → a ≠ 0x0005 + 3 * cur + 1 → a ≠ 0x0005 + 3 * cur + 2 →
            t.phys a = s.phys a) ∧
          SameRegs s t ∧ t.rcnd = s.rcnd ∧ SameStreams s t ∧
          t.run = s.run ∧ t.fault = s.fault ∧ t.faddr = s.faddr ∧ t.phase = s.phase) ∧
    ((∀ k < s.count, s.pidWord (s.scanCandidate cur k) = 0xFFFF) →
      ∃ t, exec .yld s = .next t ∧ MemoryOnly s t ∧ t.savedPc cur = s.rpc ∧ t.savedPtbr cur = s.ptbr ∧
        ∀ a : Word, a ≠ 0x0005 + 3 * cur + 1 → a ≠ 0x0005 + 3 * cur + 2 → t.phys a = s.phys a)

/-- What HALT does to memory, but for `CUR_PID`: every entry of the caller's table loses its V bit and keeps its
other bits, the frames its valid entries named become free, the caller's pid word becomes 0xFFFF. 47 R243. -/
structure Sys2Proof.Machine.HaltsCaller (s : State) (cur : Word) (t : State) : Prop where
  entries : ∀ v : Page, t.phys (s.ptbr + v.setWidth 16) = s.phys (s.ptbr + v.setWidth 16) &&& 0xFFFE
  frames : ∀ f : Page, FrameFree t f ↔ FrameFree s f ∨
    ∃ v : Page, (s.phys (s.ptbr + v.setWidth 16)).getLsbD 0 = true ∧
      (s.phys (s.ptbr + v.setWidth 16)).extractLsb' 11 5 = f
  pid : t.pidWord cur = 0xFFFF
  others : ∀ a : Word, a ≠ 0x0000 → a ≠ 0x0003 → a ≠ 0x0004 → a ≠ 0x0005 + 3 * cur →
    (∀ v : Page, a ≠ s.ptbr + v.setWidth 16) → t.phys a = s.phys a

/-- HALT: the caller's pages are freed and its PCB marked terminated; the first live candidate that is not the
caller is loaded, and if there is none the machine stops. R0 to R7 and RCND do not change. 44 R192, 47 R243. -/
def Obligations.HaltTerminatesCallerAndLoadsOrStops : Prop :=
  (∀ x : BitVec 4, decode (0b1111#4 ++ x ++ 0x25#8 : BitVec 16) = .halt) ∧
  ∀ (s : State) (cur p : Word), cur = s.phys 0x0000 → s.count ≤ 64 → cur.toNat < s.count →
    p.toNat < 64 → s.ptbr = 0x1000 + 32 * p →
    (∀ (k : Nat) (next : Word), k < s.count → next = s.scanCandidate cur k → next ≠ cur →
      s.pidWord next ≠ 0xFFFF →
      (∀ j < k, s.scanCandidate cur j = cur ∨ s.pidWord (s.scanCandidate cur j) = 0xFFFF) →
      ∃ t, exec .halt s = .next t ∧ HaltsCaller s cur t ∧
        t.rpc = s.savedPc next ∧ t.ptbr = s.savedPtbr next ∧ t.phys 0x0000 = next ∧
        SameRegs s t ∧ t.rcnd = s.rcnd ∧ SameStreams s t ∧
        t.run = s.run ∧ t.fault = s.fault ∧ t.faddr = s.faddr ∧ t.phase = s.phase) ∧
    ((∀ k < s.count, s.scanCandidate cur k = cur ∨ s.pidWord (s.scanCandidate cur k) = 0xFFFF) →
      ∃ t, exec .halt s = .next t ∧ HaltsCaller s cur t ∧
        t.run = false ∧ t.rpc = s.rpc ∧ t.ptbr = s.ptbr ∧ t.phys 0x0000 = cur ∧
        SameRegs s t ∧ t.rcnd = s.rcnd ∧ SameStreams s t ∧
        t.fault = s.fault ∧ t.faddr = s.faddr ∧ t.phase = s.phase)

/-- BRK: the request in R0 (VPN bits 15:11, W bit 2, R bit 1, allocate bit 0), case by case. An allocate takes the
lowest free frame; a free clears V and marks the frame free; every failure only adds a diagnostic record.
44 R191, R193, R194; 45 R202, R203. -/
def Obligations.BrkFollowsItsRequest : Prop :=
  (∀ x : BitVec 4, decode (0b1111#4 ++ x ++ 0x29#8 : BitVec 16) = .brk) ∧
  ∀ (s : State) (req p entry pte : Word), req = s.reg 0 → p.toNat < 64 → s.ptbr = 0x1000 + 32 * p →
    entry = s.ptbr + BitVec.ofNat 16 (req.toNat / 2048) → pte = s.phys entry →
    (req.getLsbD 0 = true → req.toNat / 2048 < 3 →
      ∃ t, exec .brk s = .next t ∧ ReportsOnly s .reservedRegion t) ∧
    (req.getLsbD 0 = true → 3 ≤ req.toNat / 2048 → pte.getLsbD 0 = true →
      ∃ t, exec .brk s = .next t ∧ ReportsOnly s .alreadyValid t) ∧
    (req.getLsbD 0 = true → 3 ≤ req.toNat / 2048 → pte.getLsbD 0 = false → (∀ f, ¬ FrameFree s f) →
      ∃ t, exec .brk s = .next t ∧ ReportsOnly s .noFrame t) ∧
    (∀ f : Page, req.getLsbD 0 = true → 3 ≤ req.toNat / 2048 → pte.getLsbD 0 = false →
      FrameFree s f → (∀ g : Page, g.toNat < f.toNat → ¬ FrameFree s g) →
      ∃ t, exec .brk s = .next t ∧ MemoryOnly s t ∧
        (t.phys entry).toNat = f.toNat * 2048 + (req.getLsbD 2).toNat * 4 + (req.getLsbD 1).toNat * 2 + 1 ∧
        ¬ FrameFree t f ∧ (∀ g : Page, g ≠ f → (FrameFree t g ↔ FrameFree s g)) ∧
        ∀ a : Word, a ≠ entry → a ≠ 0x0003 → a ≠ 0x0004 → t.phys a = s.phys a) ∧
    (req.getLsbD 0 = false → pte.getLsbD 0 = false →
      ∃ t, exec .brk s = .next t ∧ ReportsOnly s .alreadyInvalid t) ∧
    (req.getLsbD 0 = false → pte.getLsbD 0 = true →
      ∃ t, exec .brk s = .next t ∧ MemoryOnly s t ∧
        (t.phys entry).toNat = pte.toNat - 1 ∧
        (∀ g : Page, FrameFree t g ↔ FrameFree s g ∨ g = pte.extractLsb' 11 5) ∧
        ∀ a : Word, a ≠ entry → a ≠ 0x0003 → a ≠ 0x0004 → t.phys a = s.phys a)

/-- With `PROC_COUNT` = 0, the current pid below 64 and PTBR a page table, so that neither the save nor the frees
change `PROC_COUNT`, YLD and HALT stop by the model's fault: the scan is not defined there, and no running machine is in
such a state. THE MODEL'S CHOICE: log 9. 47 R241. -/
def Obligations.ScanOverNoProcessesStops : Prop :=
  ∀ s : State, s.phys 0x0001 = 0 → (s.phys 0x0000).toNat < 64 →
    exec .yld s = .fault .scanOverNoProcesses ∧
    ∀ p : Word, p.toNat < 64 → s.ptbr = 0x1000 + 32 * p → exec .halt s = .fault .scanOverNoProcesses

/-! ## The frame allocator -/

/-- Allocate then Free of the same page gives the bitmap back and leaves every word but the entry as it was.
45 R205 (e). -/
def Obligations.AllocateThenFreeRestoresBitmap : Prop :=
  ∀ (s : State) (p : Word) (v : Page) (r w : Bool) (m : Mem), p.toNat < 64 →
    Mem.allocate s.mem (0x1000 + 32 * p) v r w = .ok m →
    ∃ m', Mem.free m v (0x1000 + 32 * p) = .ok m' ∧
      ∀ a : Word, a ≠ 0x1000 + 32 * p + v.setWidth 16 → Mem.phys m' a = s.phys a

/-- A successful Allocate takes one free frame and makes one entry valid, a successful Free does the reverse, given
that the entry's frame is marked used (45 R208): their sum stays. A failure answers no new memory. 45 R205 (a), (d). -/
def Obligations.AllocatorConservesFrames : Prop :=
  ∀ (s : State) (p : Word) (v : Page) (m : Mem), p.toNat < 64 →
    (∀ r w, Mem.allocate s.mem (0x1000 + 32 * p) v r w = .ok m →
      (s.setMem m).freeFrames + 1 = s.freeFrames ∧ (s.setMem m).validEntries = s.validEntries + 1) ∧
    (Mem.free s.mem v (0x1000 + 32 * p) = .ok m → ¬ FrameFree s (s.frameOf p v) →
      (s.setMem m).freeFrames = s.freeFrames + 1 ∧ (s.setMem m).validEntries + 1 = s.validEntries)

/-! ## The step -/

/-- A step of a running machine executes the instruction its fetch decodes to, with RPC incremented.
30 R101, R102. -/
def Obligations.StepRunsDecodedInstruction : Prop :=
  ∀ (s : State) (w : Word) (i : Instr), s.run = true → s.fault = 0 → s.memRead s.rpc = .ok w → decode w = i →
    step s = exec i { s with rpc := s.rpc + 1 }

/-- A fetch that fails raises its fault with RPC not incremented. 30 R101, 60 R266. -/
def Obligations.FailedFetchRaisesItsFault : Prop :=
  ∀ (s : State) (f : Raised), s.run = true → s.fault = 0 → s.memRead s.rpc = .error f →
    ∃ t, step s = .next t ∧ FaultEntry s f t

/-- A machine that is stopped, not started or faulted changes no more: step answers the state itself. THE MODEL'S
FORM of 30 R101 and 60 R268: log 8. -/
def Obligations.StoppedAndFaultedMachinesStay : Prop :=
  ∀ s : State, s.run = false ∨ s.fault ≠ 0 → step s = .next s

/-- Every instruction answers a next state: YLD where the current pid is below `PROC_COUNT` and `PROC_COUNT` is at
most 64, HALT where besides PTBR is a page table, every other in every state. The premise for YLD and HALT keeps out
the states of log 9. That GETC, IN and INU16 go on with no item waiting is THE MODEL'S CHOICE: log 5. -/
def Obligations.EveryInstructionCompletes : Prop :=
  ∀ (i : Instr) (s : State),
    (i = .yld ∨ i = .halt → (s.phys 0x0000).toNat < s.count ∧ s.count ≤ 64) →
    (i = .halt → ∃ p : Word, p.toNat < 64 ∧ s.ptbr = 0x1000 + 32 * p) →
    ∃ t, exec i s = .next t

/-! ## Reset and the invariants -/

/-- Every piece of state after Reset. 10 R50, 70 R301, R302. -/
def Obligations.ResetValues : Prop :=
  (∀ i : Reg, State.reset.reg i = 0x0000) ∧ State.reset.rpc = 0x0000 ∧ State.reset.rcnd = 0b010 ∧
  State.reset.ptbr = 0x0000 ∧ State.reset.run = false ∧ State.reset.fault = 0 ∧ State.reset.faddr = 0x0000 ∧
  State.reset.phys 0x0003 = 0xFFF8 ∧ State.reset.phys 0x0004 = 0xFFFF ∧
  (∀ a : Word, a ≠ 0x0003 → a ≠ 0x0004 → State.reset.phys a = 0x0000) ∧
  State.reset.consoleIn = [] ∧ State.reset.consoleOut = [] ∧ State.reset.diagOut = []

/-- The invariants hold after Reset. 10 R26, R48; 70 R306. -/
def Obligations.ResetSatisfiesInvariants : Prop :=
  State.reset.OneFlag ∧ State.reset.OsInv ∧ State.reset.MachineInv ∧ Mem.wf State.reset.mem

/-- Every step keeps exactly one flag set. 10 R26, R27. -/
def Obligations.StepKeepsOneFlagSet : Prop :=
  ∀ s t : State, s.OneFlag → step s = .next t → t.OneFlag

/-- Every step keeps memory in its canonical form, so that equal memories are equal data. Log 1, 2. -/
def Obligations.StepKeepsMemoryCanonical : Prop :=
  ∀ s t : State, Mem.wf s.mem → step s = .next t → Mem.wf t.mem

/-- Every step keeps the invariants over the memory-resident state: the bitmap agrees with the page tables, no
frame is shared, no OS frame is mapped, dead processes map nothing; and with them what the boot protocol adds.
10 R48 (a) to (e), R29, R45; 46 R228; 70 R310. -/
def Obligations.StepKeepsOsInvariant : Prop :=
  ∀ s t : State, step s = .next t → (s.OsInv → t.OsInv) ∧ (s.MachineInv → t.MachineInv)

/-- Free frames plus valid entries are 29 wherever the invariants hold. 10 R48 (f). -/
def Obligations.FreeFramesAndValidEntriesSumTo29 : Prop :=
  ∀ s : State, s.OsInv → s.freeFrames + s.validEntries = 29

/-! ## Whole-machine rules -/

/-- While a process runs, no instruction but YLD, BRK and HALT changes a word of the three OS frames.
20 R75, 60 R275. -/
def Obligations.OnlyOsTrapsChangeOsMemory : Prop :=
  ∀ (i : Instr) (s t : State), s.OsInv → s.run = true → i ≠ .yld → i ≠ .brk → i ≠ .halt →
    exec i s = .next t → ∀ a : Word, a.toNat < 0x1800 → t.phys a = s.phys a

/-- Above the OS frames, an instruction changes a word only if it is a store and the word is in a frame that the
running process's own table maps writable: another process's frames are out of reach. 20 R85, 60 R275. -/
def Obligations.StoresReachOnlyOwnWritablePages : Prop :=
  ∀ (i : Instr) (s t : State) (a : Word), s.OsInv → s.run = true → exec i s = .next t →
    0x1800 ≤ a.toNat → t.phys a ≠ s.phys a →
    ((∃ r o, i = .st r o) ∨ (∃ r o, i = .sti r o) ∨ (∃ r b o, i = .str r b o)) ∧
      ∃ v : Page, s.Maps (s.phys 0x0000) v ∧ (s.pteOf (s.phys 0x0000) v).getLsbD 2 = true ∧
        (s.frameOf (s.phys 0x0000) v).toNat = a.toNat / 2048

/-- RCND is changed only by the seven instructions with a DR field, and read only by BR: any other instruction does
the same whatever RCND holds. 10 R28. -/
def Obligations.RcndIsReadOnlyByBrAndWrittenByDestinations : Prop :=
  (∀ (i : Instr) (s t : State), exec i s = .next t →
    (∀ a b c, i ≠ .add a b c) → (∀ a b c, i ≠ .addi a b c) → (∀ a b c, i ≠ .and a b c) →
    (∀ a b c, i ≠ .andi a b c) → (∀ a b, i ≠ .not a b) → (∀ a b, i ≠ .ld a b) → (∀ a b, i ≠ .ldi a b) →
    (∀ a b c, i ≠ .ldr a b c) → (∀ a b, i ≠ .lea a b) → t.rcnd = s.rcnd) ∧
  (∀ (i : Instr) (s t : State) (c : BitVec 3), (∀ m o, i ≠ .br m o) → exec i s = .next t →
    ∃ c', exec i { s with rcnd := c } = .next { t with rcnd := c' })

/-- PTBR and the current pid are changed only by YLD and HALT, while a process runs. 10 R29, R40. -/
def Obligations.OnlyYldAndHaltSwitchProcess : Prop :=
  ∀ (i : Instr) (s t : State), s.OsInv → s.run = true → i ≠ .yld → i ≠ .halt → exec i s = .next t →
    t.ptbr = s.ptbr ∧ t.phys 0x0000 = s.phys 0x0000

/-- A terminated process stays terminated, `PROC_COUNT` and `OS_STATUS` never change while steps run. 10 R41, R42;
47 R244, R245. -/
def Obligations.TerminatedIsAbsorbing : Prop :=
  ∀ (s t : State) (p : Word), s.OsInv → step s = .next t →
    t.count = s.count ∧ t.phys 0x0002 = s.phys 0x0002 ∧
    (s.procState p = .terminated → t.procState p = .terminated)

/-- A word stored through the translator is what the next read of that address gives, a fetch among them: nothing is
cached. 20 R80, R83. -/
def Obligations.StoredWordIsReadBack : Prop :=
  ∀ (s t : State) (va v : Word), s.OsInv → s.run = true → s.memWrite va v = .ok t →
    (∃ pa, s.translate .read va = .ok pa) → t.memRead va = .ok v ∧ { t with rpc := va }.fetch = .ok v

/-- A run ends well or badly. When a HALT stops the machine, every created process has terminated, nothing is mapped
and the bitmap is as after Reset; and whatever step ends a run, it ends well in this sense or with FAULT not 0.
70 R312; 47 R243. -/
def Obligations.RunEndsWellOrByFault : Prop :=
  ∀ s t : State, s.MachineInv → s.run = true → s.fault = 0 → t.run = false →
    (exec .halt s = .next t → t.EndedWell) ∧ (step s = .next t → t.EndedWell ∨ t.EndedBadly)

/-! ## The host interface -/

/-- Which commands the host may give, and what each does. Create, Load and Start only before Start, Load only of a live
pid, Start only after a Load, read-out only while RUN = 0, Reset and console input always; THE MODEL'S refusal of the
rest: log 10, 11. Load takes RPC and PTBR from the PCB and writes `CUR_PID`, nothing else; Start sets RUN; Create
returns the pid, the old `PROC_COUNT`, or failure. 46 R226; 70 R306 to R312. -/
def Obligations.HostCommandsFollowProtocol : Prop :=
  ∀ s : State,
    hostAct .reset s = .next (.done, { State.reset with inputDraws := s.inputDraws }) ∧
    (∀ items, hostAct (.input items) s = .next (.done, { s with consoleIn := s.consoleIn ++ items })) ∧
    ((∃ r t, hostAct .start s = .next (r, t)) ↔ s.run = false ∧ s.fault = 0 ∧ s.phase = .loaded) ∧
    (∀ r t, hostAct .start s = .next (r, t) → r = .done ∧ t = { s with run := true, phase := .started }) ∧
    (∀ pid, (∃ r t, hostAct (.load pid) s = .next (r, t)) ↔
      s.run = false ∧ s.fault = 0 ∧ s.phase ≠ .started ∧ pid.toNat < s.count ∧ s.pidWord pid = pid) ∧
    (∀ pid r t, hostAct (.load pid) s = .next (r, t) →
      r = .done ∧ t.rpc = s.savedPc pid ∧ t.ptbr = s.savedPtbr pid ∧ t.phys 0x0000 = pid ∧
      (∀ a : Word, a ≠ 0x0000 → t.phys a = s.phys a) ∧ SameRegs s t ∧ t.rcnd = s.rcnd ∧ SameStreams s t ∧
      t.run = s.run ∧ t.fault = s.fault ∧ t.faddr = s.faddr ∧ t.phase = .loaded) ∧
    (∀ code heap, (∃ r t, hostAct (.create code heap) s = .next (r, t)) ↔
      s.run = false ∧ s.fault = 0 ∧ s.phase ≠ .started ∧ code.length ≤ 4096 ∧ heap.length ≤ 4096) ∧
    (∀ code heap r t, hostAct (.create code heap) s = .next (r, t) →
      SameRegs s t ∧ t.rcnd = s.rcnd ∧ t.rpc = s.rpc ∧ SameControl s t ∧
      (r = .created (s.phys 0x0001) ∧ t.phys 0x0001 = s.phys 0x0001 + 1 ∧ t.diagOut = s.diagOut ∨
        r = .createFailed ∧ ∃ e, t.diagOut = s.diagOut ++ [.recoverable e])) ∧
    ((∃ r t, hostAct .readOut s = .next (r, t)) ↔ s.run = false) ∧
    (∀ r t, hostAct .readOut s = .next (r, t) → t = s ∧ ∃ o, r = .observed o ∧ o.regs = s.regs ∧
      o.rcnd = s.rcnd ∧ o.rpc = s.rpc ∧ o.ptbr = s.ptbr ∧ o.fault = s.fault ∧ o.faddr = s.faddr ∧ o.mem = s.mem ∧
      o.consoleOut = s.consoleOut ∧ o.diagOut = s.diagOut)

/-- The first process created after Reset, loaded and started, begins at 0x3000 under its own table and reads its
code image from 0x3000 on and its heap image from 0x4000 on. 46 R224, R229; 70 R314. -/
def Obligations.CreatedProcessReadsItsImages : Prop :=
  ∀ (code heap : List Word), code.length ≤ 4096 → heap.length ≤ 4096 →
    ∃ s1 s2 s3, hostAct (.create code heap) State.reset = .next (.created 0, s1) ∧
      hostAct (.load 0) s1 = .next (.done, s2) ∧ hostAct .start s2 = .next (.done, s3) ∧ s3.run = true ∧ s3.rpc = 0x3000 ∧ s3.ptbr = 0x1000 ∧
      (∀ k w, code[k]? = some w → s3.memRead (0x3000 + BitVec.ofNat 16 k) = .ok w) ∧
      (∀ k w, heap[k]? = some w → s3.memRead (0x4000 + BitVec.ofNat 16 k) = .ok w)

/-- A Create that fails for want of frames gives every frame back and leaves `PROC_COUNT` and `OS_STATUS` as they
were. 46 R225 (b). -/
def Obligations.FailedCreateLeaksNoFrame : Prop :=
  ∀ (s t : State) (code heap : List Word), s.OsInv → s.count < 64 → (s.phys 0x0002).getLsbD 0 = false →
    code.length ≤ 4096 → heap.length ≤ 4096 → s.create code heap = (none, t) →
    (∀ f : Page, FrameFree t f ↔ FrameFree s f) ∧ t.count = s.count ∧ t.phys 0x0002 = s.phys 0x0002 ∧
      t.diagOut = s.diagOut ++ [.recoverable .noFrame]

/-- Create keeps the invariants, whether it succeeds or fails; and every host command the machine accepts keeps the
invariants of the machine with its host, so that a machine that is started runs with a live current pid and PTBR its
table. 10 R29, R48; 70 R306 to R311. -/
def Obligations.HostCommandsKeepInvariants : Prop :=
  (∀ (s : State) (code heap : List Word), s.OsInv → s.run = false → code.length ≤ 4096 → heap.length ≤ 4096 →
    (s.create code heap).2.OsInv) ∧
  (∀ (c : Command) (s t : State) (r : Reply), s.MachineInv → hostAct c s = .next (r, t) → t.MachineInv) ∧
  (∀ (s t : State) (r : Reply), s.MachineInv → hostAct .start s = .next (r, t) → t.run = true ∧ t.CurrentIsLive)
end

