-- ==== Sys2Proof/Laws/Config.lean ====
section
/-! SUPPORT. The decided parameter values as rewriting rules, and what they make of the layout (spec 00 R10, R11). -/

namespace Sys2Proof.Machine

@[simp] theorem config_curPidAddr : config.curPidAddr = 0x0000 := rfl
@[simp] theorem config_procCountAddr : config.procCountAddr = 0x0001 := rfl
@[simp] theorem config_osStatusAddr : config.osStatusAddr = 0x0002 := rfl
@[simp] theorem config_bitmapAddr : config.bitmapAddr = 0x0003 := rfl
@[simp] theorem config_pcbBase : config.pcbBase = 0x0005 := rfl
@[simp] theorem config_ptBase : config.ptBase = 0x1000 := rfl
@[simp] theorem config_codeEntry : config.codeEntry = 0x3000 := rfl
@[simp] theorem config_nReservedFrames : config.nReservedFrames = 3 := rfl
@[simp] theorem config_bitmapOrder : config.bitmapOrder = .lsb0 := rfl
@[simp] theorem config_statusFullBit : config.statusFullBit = 0 := rfl
@[simp] theorem config_trapBase : config.trapBase = 0x20 := rfl
@[simp] theorem config_segMaxWords : config.segMaxWords = 4096 := rfl
@[simp] theorem config_jsrrReadsBaseFirst : config.jsrrReadsBaseFirst = true := rfl
@[simp] theorem config_reservedOpcodeIsNop : config.reservedOpcodeIsNop = true := rfl

/-- The decided parameters satisfy the constraints of 00 R11. -/
theorem config_layoutOk : config.LayoutOk := by decide

theorem resetBitmapWord_zero : resetBitmapWord 0 = 0xFFF8 := by decide

theorem resetBitmapWord_one : resetBitmapWord 1 = 0xFFFF := by decide

/-- What Reset leaves at each address (10 R50). -/
theorem resetWord_eq (a : Nat) :
    resetWord a = if a = 3 then 0xFFF8 else if a = 4 then 0xFFFF else 0 := by
  simp [resetWord, resetBitmapWord_zero, resetBitmapWord_one]

theorem frameBit_eq (f : Nat) : frameBit f = 1#16 <<< (f % 16) := rfl

end Sys2Proof.Machine
end

