-- ==== Sys2Proof/Laws/State.lean ====
section
/-! SUPPORT. What each update of the state leaves in each field: one lemma a field and update, so that no proof
unfolds a record update. -/

namespace Sys2Proof.Machine

@[simp] theorem State.setcc_regs (s : State) (v : Word) : (s.setcc v).regs = s.regs := rfl
@[simp] theorem State.setcc_rpc (s : State) (v : Word) : (s.setcc v).rpc = s.rpc := rfl
@[simp] theorem State.setcc_rcnd (s : State) (v : Word) : (s.setcc v).rcnd = flagsOf v := rfl
@[simp] theorem State.setcc_ptbr (s : State) (v : Word) : (s.setcc v).ptbr = s.ptbr := rfl
@[simp] theorem State.setcc_run (s : State) (v : Word) : (s.setcc v).run = s.run := rfl
@[simp] theorem State.setcc_fault (s : State) (v : Word) : (s.setcc v).fault = s.fault := rfl
@[simp] theorem State.setcc_faddr (s : State) (v : Word) : (s.setcc v).faddr = s.faddr := rfl
@[simp] theorem State.setcc_mem (s : State) (v : Word) : (s.setcc v).mem = s.mem := rfl
@[simp] theorem State.setcc_consoleIn (s : State) (v : Word) : (s.setcc v).consoleIn = s.consoleIn := rfl
@[simp] theorem State.setcc_consoleOut (s : State) (v : Word) : (s.setcc v).consoleOut = s.consoleOut := rfl
@[simp] theorem State.setcc_diagOut (s : State) (v : Word) : (s.setcc v).diagOut = s.diagOut := rfl
@[simp] theorem State.setcc_inputDraws (s : State) (v : Word) : (s.setcc v).inputDraws = s.inputDraws := rfl
@[simp] theorem State.setcc_phase (s : State) (v : Word) : (s.setcc v).phase = s.phase := rfl

@[simp] theorem State.setReg_regs (s : State) (i : Reg) (v : Word) : (s.setReg i v).regs = s.regs.set i.toNat v i.isLt := rfl
@[simp] theorem State.setReg_rpc (s : State) (i : Reg) (v : Word) : (s.setReg i v).rpc = s.rpc := rfl
@[simp] theorem State.setReg_rcnd (s : State) (i : Reg) (v : Word) : (s.setReg i v).rcnd = s.rcnd := rfl
@[simp] theorem State.setReg_ptbr (s : State) (i : Reg) (v : Word) : (s.setReg i v).ptbr = s.ptbr := rfl
@[simp] theorem State.setReg_run (s : State) (i : Reg) (v : Word) : (s.setReg i v).run = s.run := rfl
@[simp] theorem State.setReg_fault (s : State) (i : Reg) (v : Word) : (s.setReg i v).fault = s.fault := rfl
@[simp] theorem State.setReg_faddr (s : State) (i : Reg) (v : Word) : (s.setReg i v).faddr = s.faddr := rfl
@[simp] theorem State.setReg_mem (s : State) (i : Reg) (v : Word) : (s.setReg i v).mem = s.mem := rfl
@[simp] theorem State.setReg_consoleIn (s : State) (i : Reg) (v : Word) : (s.setReg i v).consoleIn = s.consoleIn := rfl
@[simp] theorem State.setReg_consoleOut (s : State) (i : Reg) (v : Word) : (s.setReg i v).consoleOut = s.consoleOut := rfl
@[simp] theorem State.setReg_diagOut (s : State) (i : Reg) (v : Word) : (s.setReg i v).diagOut = s.diagOut := rfl
@[simp] theorem State.setReg_inputDraws (s : State) (i : Reg) (v : Word) : (s.setReg i v).inputDraws = s.inputDraws := rfl
@[simp] theorem State.setReg_phase (s : State) (i : Reg) (v : Word) : (s.setReg i v).phase = s.phase := rfl

@[simp] theorem State.setRpc_regs (s : State) (v : Word) : (s.setRpc v).regs = s.regs := rfl
@[simp] theorem State.setRpc_rpc (s : State) (v : Word) : (s.setRpc v).rpc = v := rfl
@[simp] theorem State.setRpc_rcnd (s : State) (v : Word) : (s.setRpc v).rcnd = s.rcnd := rfl
@[simp] theorem State.setRpc_ptbr (s : State) (v : Word) : (s.setRpc v).ptbr = s.ptbr := rfl
@[simp] theorem State.setRpc_run (s : State) (v : Word) : (s.setRpc v).run = s.run := rfl
@[simp] theorem State.setRpc_fault (s : State) (v : Word) : (s.setRpc v).fault = s.fault := rfl
@[simp] theorem State.setRpc_faddr (s : State) (v : Word) : (s.setRpc v).faddr = s.faddr := rfl
@[simp] theorem State.setRpc_mem (s : State) (v : Word) : (s.setRpc v).mem = s.mem := rfl
@[simp] theorem State.setRpc_consoleIn (s : State) (v : Word) : (s.setRpc v).consoleIn = s.consoleIn := rfl
@[simp] theorem State.setRpc_consoleOut (s : State) (v : Word) : (s.setRpc v).consoleOut = s.consoleOut := rfl
@[simp] theorem State.setRpc_diagOut (s : State) (v : Word) : (s.setRpc v).diagOut = s.diagOut := rfl
@[simp] theorem State.setRpc_inputDraws (s : State) (v : Word) : (s.setRpc v).inputDraws = s.inputDraws := rfl
@[simp] theorem State.setRpc_phase (s : State) (v : Word) : (s.setRpc v).phase = s.phase := rfl

@[simp] theorem State.setPtbr_regs (s : State) (v : Word) : (s.setPtbr v).regs = s.regs := rfl
@[simp] theorem State.setPtbr_rpc (s : State) (v : Word) : (s.setPtbr v).rpc = s.rpc := rfl
@[simp] theorem State.setPtbr_rcnd (s : State) (v : Word) : (s.setPtbr v).rcnd = s.rcnd := rfl
@[simp] theorem State.setPtbr_ptbr (s : State) (v : Word) : (s.setPtbr v).ptbr = v := rfl
@[simp] theorem State.setPtbr_run (s : State) (v : Word) : (s.setPtbr v).run = s.run := rfl
@[simp] theorem State.setPtbr_fault (s : State) (v : Word) : (s.setPtbr v).fault = s.fault := rfl
@[simp] theorem State.setPtbr_faddr (s : State) (v : Word) : (s.setPtbr v).faddr = s.faddr := rfl
@[simp] theorem State.setPtbr_mem (s : State) (v : Word) : (s.setPtbr v).mem = s.mem := rfl
@[simp] theorem State.setPtbr_consoleIn (s : State) (v : Word) : (s.setPtbr v).consoleIn = s.consoleIn := rfl
@[simp] theorem State.setPtbr_consoleOut (s : State) (v : Word) : (s.setPtbr v).consoleOut = s.consoleOut := rfl
@[simp] theorem State.setPtbr_diagOut (s : State) (v : Word) : (s.setPtbr v).diagOut = s.diagOut := rfl
@[simp] theorem State.setPtbr_inputDraws (s : State) (v : Word) : (s.setPtbr v).inputDraws = s.inputDraws := rfl
@[simp] theorem State.setPtbr_phase (s : State) (v : Word) : (s.setPtbr v).phase = s.phase := rfl

@[simp] theorem State.setRun_regs (s : State) (b : Bool) : (s.setRun b).regs = s.regs := rfl
@[simp] theorem State.setRun_rpc (s : State) (b : Bool) : (s.setRun b).rpc = s.rpc := rfl
@[simp] theorem State.setRun_rcnd (s : State) (b : Bool) : (s.setRun b).rcnd = s.rcnd := rfl
@[simp] theorem State.setRun_ptbr (s : State) (b : Bool) : (s.setRun b).ptbr = s.ptbr := rfl
@[simp] theorem State.setRun_run (s : State) (b : Bool) : (s.setRun b).run = b := rfl
@[simp] theorem State.setRun_fault (s : State) (b : Bool) : (s.setRun b).fault = s.fault := rfl
@[simp] theorem State.setRun_faddr (s : State) (b : Bool) : (s.setRun b).faddr = s.faddr := rfl
@[simp] theorem State.setRun_mem (s : State) (b : Bool) : (s.setRun b).mem = s.mem := rfl
@[simp] theorem State.setRun_consoleIn (s : State) (b : Bool) : (s.setRun b).consoleIn = s.consoleIn := rfl
@[simp] theorem State.setRun_consoleOut (s : State) (b : Bool) : (s.setRun b).consoleOut = s.consoleOut := rfl
@[simp] theorem State.setRun_diagOut (s : State) (b : Bool) : (s.setRun b).diagOut = s.diagOut := rfl
@[simp] theorem State.setRun_inputDraws (s : State) (b : Bool) : (s.setRun b).inputDraws = s.inputDraws := rfl
@[simp] theorem State.setRun_phase (s : State) (b : Bool) : (s.setRun b).phase = s.phase := rfl

@[simp] theorem State.setMem_regs (s : State) (m : Mem) : (s.setMem m).regs = s.regs := rfl
@[simp] theorem State.setMem_rpc (s : State) (m : Mem) : (s.setMem m).rpc = s.rpc := rfl
@[simp] theorem State.setMem_rcnd (s : State) (m : Mem) : (s.setMem m).rcnd = s.rcnd := rfl
@[simp] theorem State.setMem_ptbr (s : State) (m : Mem) : (s.setMem m).ptbr = s.ptbr := rfl
@[simp] theorem State.setMem_run (s : State) (m : Mem) : (s.setMem m).run = s.run := rfl
@[simp] theorem State.setMem_fault (s : State) (m : Mem) : (s.setMem m).fault = s.fault := rfl
@[simp] theorem State.setMem_faddr (s : State) (m : Mem) : (s.setMem m).faddr = s.faddr := rfl
@[simp] theorem State.setMem_mem (s : State) (m : Mem) : (s.setMem m).mem = m := rfl
@[simp] theorem State.setMem_consoleIn (s : State) (m : Mem) : (s.setMem m).consoleIn = s.consoleIn := rfl
@[simp] theorem State.setMem_consoleOut (s : State) (m : Mem) : (s.setMem m).consoleOut = s.consoleOut := rfl
@[simp] theorem State.setMem_diagOut (s : State) (m : Mem) : (s.setMem m).diagOut = s.diagOut := rfl
@[simp] theorem State.setMem_inputDraws (s : State) (m : Mem) : (s.setMem m).inputDraws = s.inputDraws := rfl
@[simp] theorem State.setMem_phase (s : State) (m : Mem) : (s.setMem m).phase = s.phase := rfl

@[simp] theorem State.setPhys_regs (s : State) (a v : Word) : (s.setPhys a v).regs = s.regs := rfl
@[simp] theorem State.setPhys_rpc (s : State) (a v : Word) : (s.setPhys a v).rpc = s.rpc := rfl
@[simp] theorem State.setPhys_rcnd (s : State) (a v : Word) : (s.setPhys a v).rcnd = s.rcnd := rfl
@[simp] theorem State.setPhys_ptbr (s : State) (a v : Word) : (s.setPhys a v).ptbr = s.ptbr := rfl
@[simp] theorem State.setPhys_run (s : State) (a v : Word) : (s.setPhys a v).run = s.run := rfl
@[simp] theorem State.setPhys_fault (s : State) (a v : Word) : (s.setPhys a v).fault = s.fault := rfl
@[simp] theorem State.setPhys_faddr (s : State) (a v : Word) : (s.setPhys a v).faddr = s.faddr := rfl
@[simp] theorem State.setPhys_mem (s : State) (a v : Word) : (s.setPhys a v).mem = Mem.setPhys s.mem a v := rfl
@[simp] theorem State.setPhys_consoleIn (s : State) (a v : Word) : (s.setPhys a v).consoleIn = s.consoleIn := rfl
@[simp] theorem State.setPhys_consoleOut (s : State) (a v : Word) : (s.setPhys a v).consoleOut = s.consoleOut := rfl
@[simp] theorem State.setPhys_diagOut (s : State) (a v : Word) : (s.setPhys a v).diagOut = s.diagOut := rfl
@[simp] theorem State.setPhys_inputDraws (s : State) (a v : Word) : (s.setPhys a v).inputDraws = s.inputDraws := rfl
@[simp] theorem State.setPhys_phase (s : State) (a v : Word) : (s.setPhys a v).phase = s.phase := rfl

@[simp] theorem State.define_regs (s : State) (dr : Reg) (v : Word) : (s.define dr v).regs = s.regs.set dr.toNat v dr.isLt := rfl
@[simp] theorem State.define_rpc (s : State) (dr : Reg) (v : Word) : (s.define dr v).rpc = s.rpc := rfl
@[simp] theorem State.define_rcnd (s : State) (dr : Reg) (v : Word) : (s.define dr v).rcnd = flagsOf v := rfl
@[simp] theorem State.define_ptbr (s : State) (dr : Reg) (v : Word) : (s.define dr v).ptbr = s.ptbr := rfl
@[simp] theorem State.define_run (s : State) (dr : Reg) (v : Word) : (s.define dr v).run = s.run := rfl
@[simp] theorem State.define_fault (s : State) (dr : Reg) (v : Word) : (s.define dr v).fault = s.fault := rfl
@[simp] theorem State.define_faddr (s : State) (dr : Reg) (v : Word) : (s.define dr v).faddr = s.faddr := rfl
@[simp] theorem State.define_mem (s : State) (dr : Reg) (v : Word) : (s.define dr v).mem = s.mem := rfl
@[simp] theorem State.define_consoleIn (s : State) (dr : Reg) (v : Word) : (s.define dr v).consoleIn = s.consoleIn := rfl
@[simp] theorem State.define_consoleOut (s : State) (dr : Reg) (v : Word) : (s.define dr v).consoleOut = s.consoleOut := rfl
@[simp] theorem State.define_diagOut (s : State) (dr : Reg) (v : Word) : (s.define dr v).diagOut = s.diagOut := rfl
@[simp] theorem State.define_inputDraws (s : State) (dr : Reg) (v : Word) : (s.define dr v).inputDraws = s.inputDraws := rfl
@[simp] theorem State.define_phase (s : State) (dr : Reg) (v : Word) : (s.define dr v).phase = s.phase := rfl

@[simp] theorem State.emit_regs (s : State) (cs : List Byte) : (s.emit cs).regs = s.regs := rfl
@[simp] theorem State.emit_rpc (s : State) (cs : List Byte) : (s.emit cs).rpc = s.rpc := rfl
@[simp] theorem State.emit_rcnd (s : State) (cs : List Byte) : (s.emit cs).rcnd = s.rcnd := rfl
@[simp] theorem State.emit_ptbr (s : State) (cs : List Byte) : (s.emit cs).ptbr = s.ptbr := rfl
@[simp] theorem State.emit_run (s : State) (cs : List Byte) : (s.emit cs).run = s.run := rfl
@[simp] theorem State.emit_fault (s : State) (cs : List Byte) : (s.emit cs).fault = s.fault := rfl
@[simp] theorem State.emit_faddr (s : State) (cs : List Byte) : (s.emit cs).faddr = s.faddr := rfl
@[simp] theorem State.emit_mem (s : State) (cs : List Byte) : (s.emit cs).mem = s.mem := rfl
@[simp] theorem State.emit_consoleIn (s : State) (cs : List Byte) : (s.emit cs).consoleIn = s.consoleIn := rfl
@[simp] theorem State.emit_consoleOut (s : State) (cs : List Byte) : (s.emit cs).consoleOut = s.consoleOut ++ cs := rfl
@[simp] theorem State.emit_diagOut (s : State) (cs : List Byte) : (s.emit cs).diagOut = s.diagOut := rfl
@[simp] theorem State.emit_inputDraws (s : State) (cs : List Byte) : (s.emit cs).inputDraws = s.inputDraws := rfl
@[simp] theorem State.emit_phase (s : State) (cs : List Byte) : (s.emit cs).phase = s.phase := rfl

@[simp] theorem State.diag_regs (s : State) (e : Failure) : (s.diag e).regs = s.regs := rfl
@[simp] theorem State.diag_rpc (s : State) (e : Failure) : (s.diag e).rpc = s.rpc := rfl
@[simp] theorem State.diag_rcnd (s : State) (e : Failure) : (s.diag e).rcnd = s.rcnd := rfl
@[simp] theorem State.diag_ptbr (s : State) (e : Failure) : (s.diag e).ptbr = s.ptbr := rfl
@[simp] theorem State.diag_run (s : State) (e : Failure) : (s.diag e).run = s.run := rfl
@[simp] theorem State.diag_fault (s : State) (e : Failure) : (s.diag e).fault = s.fault := rfl
@[simp] theorem State.diag_faddr (s : State) (e : Failure) : (s.diag e).faddr = s.faddr := rfl
@[simp] theorem State.diag_mem (s : State) (e : Failure) : (s.diag e).mem = s.mem := rfl
@[simp] theorem State.diag_consoleIn (s : State) (e : Failure) : (s.diag e).consoleIn = s.consoleIn := rfl
@[simp] theorem State.diag_consoleOut (s : State) (e : Failure) : (s.diag e).consoleOut = s.consoleOut := rfl
@[simp] theorem State.diag_diagOut (s : State) (e : Failure) : (s.diag e).diagOut = s.diagOut ++ [.recoverable e] := rfl
@[simp] theorem State.diag_inputDraws (s : State) (e : Failure) : (s.diag e).inputDraws = s.inputDraws := rfl
@[simp] theorem State.diag_phase (s : State) (e : Failure) : (s.diag e).phase = s.phase := rfl

@[simp] theorem State.raise_regs (s : State) (f : Raised) : (s.raise f).regs = s.regs := rfl
@[simp] theorem State.raise_rpc (s : State) (f : Raised) : (s.raise f).rpc = s.rpc := rfl
@[simp] theorem State.raise_rcnd (s : State) (f : Raised) : (s.raise f).rcnd = s.rcnd := rfl
@[simp] theorem State.raise_ptbr (s : State) (f : Raised) : (s.raise f).ptbr = s.ptbr := rfl
@[simp] theorem State.raise_run (s : State) (f : Raised) : (s.raise f).run = false := rfl
@[simp] theorem State.raise_fault (s : State) (f : Raised) : (s.raise f).fault = if s.fault = 0 then f.code.number else s.fault := rfl
@[simp] theorem State.raise_faddr (s : State) (f : Raised) : (s.raise f).faddr = f.info := rfl
@[simp] theorem State.raise_mem (s : State) (f : Raised) : (s.raise f).mem = s.mem := rfl
@[simp] theorem State.raise_consoleIn (s : State) (f : Raised) : (s.raise f).consoleIn = s.consoleIn := rfl
@[simp] theorem State.raise_consoleOut (s : State) (f : Raised) : (s.raise f).consoleOut = s.consoleOut := rfl
@[simp] theorem State.raise_diagOut (s : State) (f : Raised) : (s.raise f).diagOut = s.diagOut ++ [.fatal f.code f.info] := rfl
@[simp] theorem State.raise_inputDraws (s : State) (f : Raised) : (s.raise f).inputDraws = s.inputDraws := rfl
@[simp] theorem State.raise_phase (s : State) (f : Raised) : (s.raise f).phase = s.phase := rfl

@[simp] theorem State.advance_regs (s : State) : (s.advance).regs = s.regs := rfl
@[simp] theorem State.advance_rpc (s : State) : (s.advance).rpc = s.rpc + 1 := rfl
@[simp] theorem State.advance_rcnd (s : State) : (s.advance).rcnd = s.rcnd := rfl
@[simp] theorem State.advance_ptbr (s : State) : (s.advance).ptbr = s.ptbr := rfl
@[simp] theorem State.advance_run (s : State) : (s.advance).run = s.run := rfl
@[simp] theorem State.advance_fault (s : State) : (s.advance).fault = s.fault := rfl
@[simp] theorem State.advance_faddr (s : State) : (s.advance).faddr = s.faddr := rfl
@[simp] theorem State.advance_mem (s : State) : (s.advance).mem = s.mem := rfl
@[simp] theorem State.advance_consoleIn (s : State) : (s.advance).consoleIn = s.consoleIn := rfl
@[simp] theorem State.advance_consoleOut (s : State) : (s.advance).consoleOut = s.consoleOut := rfl
@[simp] theorem State.advance_diagOut (s : State) : (s.advance).diagOut = s.diagOut := rfl
@[simp] theorem State.advance_inputDraws (s : State) : (s.advance).inputDraws = s.inputDraws := rfl
@[simp] theorem State.advance_phase (s : State) : (s.advance).phase = s.phase := rfl

@[simp] theorem State.save_regs (s : State) (cur : Word) : (s.save cur).regs = s.regs := rfl
@[simp] theorem State.save_rpc (s : State) (cur : Word) : (s.save cur).rpc = s.rpc := rfl
@[simp] theorem State.save_rcnd (s : State) (cur : Word) : (s.save cur).rcnd = s.rcnd := rfl
@[simp] theorem State.save_ptbr (s : State) (cur : Word) : (s.save cur).ptbr = s.ptbr := rfl
@[simp] theorem State.save_run (s : State) (cur : Word) : (s.save cur).run = s.run := rfl
@[simp] theorem State.save_fault (s : State) (cur : Word) : (s.save cur).fault = s.fault := rfl
@[simp] theorem State.save_faddr (s : State) (cur : Word) : (s.save cur).faddr = s.faddr := rfl
@[simp] theorem State.save_mem (s : State) (cur : Word) : (s.save cur).mem = Mem.setPhys (Mem.setPhys s.mem (pcbAddr cur 1) s.rpc) (pcbAddr cur 2) s.ptbr := rfl
@[simp] theorem State.save_consoleIn (s : State) (cur : Word) : (s.save cur).consoleIn = s.consoleIn := rfl
@[simp] theorem State.save_consoleOut (s : State) (cur : Word) : (s.save cur).consoleOut = s.consoleOut := rfl
@[simp] theorem State.save_diagOut (s : State) (cur : Word) : (s.save cur).diagOut = s.diagOut := rfl
@[simp] theorem State.save_inputDraws (s : State) (cur : Word) : (s.save cur).inputDraws = s.inputDraws := rfl
@[simp] theorem State.save_phase (s : State) (cur : Word) : (s.save cur).phase = s.phase := rfl

@[simp] theorem State.load_regs (s : State) (pid : Word) : (s.load pid).regs = s.regs := rfl
@[simp] theorem State.load_rpc (s : State) (pid : Word) : (s.load pid).rpc = Mem.pcbPc s.mem pid := rfl
@[simp] theorem State.load_rcnd (s : State) (pid : Word) : (s.load pid).rcnd = s.rcnd := rfl
@[simp] theorem State.load_ptbr (s : State) (pid : Word) : (s.load pid).ptbr = Mem.pcbPtbr s.mem pid := rfl
@[simp] theorem State.load_run (s : State) (pid : Word) : (s.load pid).run = s.run := rfl
@[simp] theorem State.load_fault (s : State) (pid : Word) : (s.load pid).fault = s.fault := rfl
@[simp] theorem State.load_faddr (s : State) (pid : Word) : (s.load pid).faddr = s.faddr := rfl
@[simp] theorem State.load_mem (s : State) (pid : Word) : (s.load pid).mem = Mem.setPhys s.mem config.curPidAddr pid := rfl
@[simp] theorem State.load_consoleIn (s : State) (pid : Word) : (s.load pid).consoleIn = s.consoleIn := rfl
@[simp] theorem State.load_consoleOut (s : State) (pid : Word) : (s.load pid).consoleOut = s.consoleOut := rfl
@[simp] theorem State.load_diagOut (s : State) (pid : Word) : (s.load pid).diagOut = s.diagOut := rfl
@[simp] theorem State.load_inputDraws (s : State) (pid : Word) : (s.load pid).inputDraws = s.inputDraws := rfl
@[simp] theorem State.load_phase (s : State) (pid : Word) : (s.load pid).phase = s.phase := rfl

/-! ## Reading a register and a word after an update -/

theorem State.setReg_reg (s : State) (i j : Reg) (v : Word) :
    (s.setReg i v).reg j = if i = j then v else s.reg j := by
  unfold State.reg State.setReg
  by_cases h : i = j
  · subst h; simp
  · have : i.toNat ≠ j.toNat := fun e => h (BitVec.eq_of_toNat_eq e)
    simp [h, this]

@[simp] theorem State.setReg_reg_same (s : State) (i : Reg) (v : Word) : (s.setReg i v).reg i = v := by
  simp [State.setReg_reg]

theorem State.define_reg (s : State) (dr j : Reg) (v : Word) :
    (s.define dr v).reg j = if dr = j then v else s.reg j :=
  s.setReg_reg dr j v

@[simp] theorem State.setcc_reg (s : State) (v : Word) (j : Reg) : (s.setcc v).reg j = s.reg j := rfl
@[simp] theorem State.setRpc_reg (s : State) (v : Word) (j : Reg) : (s.setRpc v).reg j = s.reg j := rfl
@[simp] theorem State.setPtbr_reg (s : State) (v : Word) (j : Reg) : (s.setPtbr v).reg j = s.reg j := rfl
@[simp] theorem State.setRun_reg (s : State) (b : Bool) (j : Reg) : (s.setRun b).reg j = s.reg j := rfl
@[simp] theorem State.setMem_reg (s : State) (m : Mem) (j : Reg) : (s.setMem m).reg j = s.reg j := rfl
@[simp] theorem State.setPhys_reg (s : State) (a v : Word) (j : Reg) : (s.setPhys a v).reg j = s.reg j := rfl
@[simp] theorem State.emit_reg (s : State) (cs : List Byte) (j : Reg) : (s.emit cs).reg j = s.reg j := rfl
@[simp] theorem State.diag_reg (s : State) (e : Failure) (j : Reg) : (s.diag e).reg j = s.reg j := rfl
@[simp] theorem State.raise_reg (s : State) (f : Raised) (j : Reg) : (s.raise f).reg j = s.reg j := rfl
@[simp] theorem State.advance_reg (s : State) (j : Reg) : (s.advance).reg j = s.reg j := rfl
@[simp] theorem State.save_reg (s : State) (cur : Word) (j : Reg) : (s.save cur).reg j = s.reg j := rfl
@[simp] theorem State.load_reg (s : State) (pid : Word) (j : Reg) : (s.load pid).reg j = s.reg j := rfl

@[simp] theorem State.setcc_phys (s : State) (v : Word) (p : Word) : (s.setcc v).phys p = s.phys p := rfl
@[simp] theorem State.setReg_phys (s : State) (i : Reg) (v : Word) (p : Word) : (s.setReg i v).phys p = s.phys p := rfl
@[simp] theorem State.setRpc_phys (s : State) (v : Word) (p : Word) : (s.setRpc v).phys p = s.phys p := rfl
@[simp] theorem State.setPtbr_phys (s : State) (v : Word) (p : Word) : (s.setPtbr v).phys p = s.phys p := rfl
@[simp] theorem State.setRun_phys (s : State) (b : Bool) (p : Word) : (s.setRun b).phys p = s.phys p := rfl
@[simp] theorem State.define_phys (s : State) (dr : Reg) (v : Word) (p : Word) : (s.define dr v).phys p = s.phys p := rfl
@[simp] theorem State.emit_phys (s : State) (cs : List Byte) (p : Word) : (s.emit cs).phys p = s.phys p := rfl
@[simp] theorem State.diag_phys (s : State) (e : Failure) (p : Word) : (s.diag e).phys p = s.phys p := rfl
@[simp] theorem State.raise_phys (s : State) (f : Raised) (p : Word) : (s.raise f).phys p = s.phys p := rfl
@[simp] theorem State.advance_phys (s : State) (p : Word) : (s.advance).phys p = s.phys p := rfl

@[simp] theorem State.setMem_phys (s : State) (m : Mem) (p : Word) : (s.setMem m).phys p = Mem.phys m p := rfl

end Sys2Proof.Machine
end

