-- ==== Sys2Proof/Laws/Memory.lean ====
section
/-! SUPPORT. The laws of physical memory: read after write, and that every write keeps the canonical form. -/

namespace Sys2Proof.Machine

theorem Mem.read_insert (a : Nat) (w : Word) (m : Mem) (b : Nat) :
    Mem.read (Mem.insert a w m) b = if a = b then w else Mem.read m b := by
  induction m with
  | nil => simp [Mem.insert, Mem.read]
  | cons c m ih =>
    obtain ⟨d, v⟩ := c
    simp only [Mem.insert]
    split_ifs <;> simp_all [Mem.read]


theorem Mem.read_erase (a : Nat) (m : Mem) (b : Nat) :
    Mem.read (m.filter (fun c => c.1 ≠ a)) b = if a = b then resetWord a else Mem.read m b := by
  induction m with
  | nil => by_cases h : a = b <;> simp [Mem.read, h]
  | cons c m ih =>
    obtain ⟨d, v⟩ := c
    by_cases h : d = a
    · subst h
      simp only [ne_eq, List.filter_cons, not_true_eq_false, decide_false, Bool.false_eq_true, if_false,
        Mem.read]
      rw [show (fun c : Nat × Word => decide (¬c.1 = d)) = (fun c => decide (c.1 ≠ d)) from rfl, ih]
      split_ifs <;> rfl
    · simp only [ne_eq, List.filter_cons, h, not_false_eq_true, decide_true, if_true, Mem.read]
      rw [show (fun c : Nat × Word => decide (¬c.1 = a)) = (fun c => decide (c.1 ≠ a)) from rfl, ih]
      by_cases h1 : d = b
      · subst h1; simp [Ne.symm h]
      · simp [h1]

/-- Read after write: the word written at its address, every other word as before. -/
theorem Mem.read_write (m : Mem) (a : Nat) (w : Word) (b : Nat) :
    Mem.read (Mem.write m a w) b = if a = b then w else Mem.read m b := by
  unfold Mem.write
  split_ifs with h h2
  · rw [Mem.read_erase, if_pos h2, h]
  · rw [Mem.read_erase, if_neg h2]
  · rw [Mem.read_insert, if_pos ‹_›]
  · rw [Mem.read_insert, if_neg ‹_›]

@[simp] theorem Mem.phys_setPhys (m : Mem) (a v b : Word) :
    Mem.phys (Mem.setPhys m a v) b = if a = b then v else Mem.phys m b := by
  simp [Mem.phys, Mem.setPhys, Mem.read_write, BitVec.toNat_inj]

@[simp] theorem State.phys_setPhys (s : State) (a v b : Word) :
    (s.setPhys a v).phys b = if a = b then v else s.phys b :=
  Mem.phys_setPhys s.mem a v b

theorem Mem.mem_insert {a : Nat} {w : Word} {m : Mem} {c : Nat × Word} (h : c ∈ Mem.insert a w m) :
    c = (a, w) ∨ c ∈ m := by
  induction m with
  | nil => simpa [Mem.insert] using h
  | cons d m ih =>
    obtain ⟨b, v⟩ := d
    simp only [Mem.insert] at h
    split_ifs at h <;> simp only [List.mem_cons] at h ⊢
    · exact h
    · exact h.imp_right .inr
    · exact h.elim (fun e => .inr (.inl e)) fun e => (ih e).imp_right .inr

theorem Mem.insert_sorted {a : Nat} {w : Word} {m : Mem} (h : m.Pairwise fun c d => c.1 < d.1) :
    (Mem.insert a w m).Pairwise fun c d => c.1 < d.1 := by
  induction m with
  | nil => simp [Mem.insert]
  | cons d m ih =>
    obtain ⟨b, v⟩ := d
    rw [List.pairwise_cons] at h
    simp only [Mem.insert]
    split_ifs with h1 h2
    · refine List.pairwise_cons.2 ⟨fun c hc => ?_, List.pairwise_cons.2 h⟩
      rcases List.mem_cons.1 hc with rfl | hc
      · exact h1
      · exact lt_trans h1 (h.1 c hc)
    · subst h2; exact List.pairwise_cons.2 h
    · refine List.pairwise_cons.2 ⟨fun c hc => ?_, ih h.2⟩
      rcases Mem.mem_insert hc with rfl | hc
      · exact lt_of_le_of_ne (not_lt.1 h1) h2
      · exact h.1 c hc

/-- Every write inside the address space keeps the canonical form. -/
theorem Mem.write_wf {m : Mem} {a : Nat} (w : Word) (h : Mem.wf m) (ha : a < memWords) :
    Mem.wf (Mem.write m a w) := by
  unfold Mem.write
  split_ifs with hw
  · exact ⟨h.1.filter _, fun c hc => h.2 c (List.mem_of_mem_filter hc)⟩
  · refine ⟨Mem.insert_sorted h.1, fun c hc => ?_⟩
    rcases Mem.mem_insert hc with rfl | hc
    · exact ⟨ha, hw⟩
    · exact h.2 c hc

theorem Mem.setPhys_wf {m : Mem} (a v : Word) (h : Mem.wf m) : Mem.wf (Mem.setPhys m a v) :=
  Mem.write_wf v h a.isLt

/-- Memory after Reset is in canonical form. -/
theorem State.reset_mem_wf : Mem.wf State.reset.mem := by decide

end Sys2Proof.Machine
end

