-- ==== Sys2Proof/Laws/Translate.lean ====
section
/-! SUPPORT. What the translator can answer (spec 20 R70 to R75), and the fields of a page-table entry. -/

namespace Sys2Proof.Machine

/-- The lowest physical address of frame 3: below it lie the OS words, the PCBs and the page tables (20 R62). -/
theorem physAddr_toNat (pfn : Page) (off : BitVec 11) :
    (physAddr pfn off).toNat = pfn.toNat * 2048 + off.toNat := by
  have h := off.isLt
  simp only [physAddr, BitVec.toNat_append]
  rw [← Nat.shiftLeft_add_eq_or_of_lt h, Nat.shiftLeft_eq]

theorem vpnOf_toNat (va : Word) : (vpnOf va).toNat = va.toNat / 2048 := by
  have := va.isLt
  simp only [vpnOf, BitVec.extractLsb'_toNat, Nat.shiftRight_eq_div_pow]
  omega

theorem offsetOf_toNat (va : Word) : (offsetOf va).toNat = va.toNat % 2048 := by
  simp [offsetOf]

theorem ptePfn_toNat (pte : Word) : (ptePfn pte).toNat = pte.toNat / 2048 := vpnOf_toNat pte

theorem isReservedPage_iff (v : Page) : isReservedPage v = true ↔ v.toNat < 3 := by
  simp [isReservedPage]

/-- A translation succeeds exactly when the page is not reserved, is mapped and permits the access, and then
gives frame and offset (20 R72, R75). -/
theorem State.translate_ok_iff (s : State) (k : Access) (va pa : Word) :
    s.translate k va = .ok pa ↔
      isReservedPage (vpnOf va) = false ∧ pteValid (Mem.pte s.mem s.ptbr (vpnOf va)) = true ∧
      ptePermits k (Mem.pte s.mem s.ptbr (vpnOf va)) = true ∧
      pa = physAddr (ptePfn (Mem.pte s.mem s.ptbr (vpnOf va))) (offsetOf va) := by
  unfold State.translate
  cases isReservedPage (vpnOf va) <;> cases pteValid (Mem.pte s.mem s.ptbr (vpnOf va)) <;>
    cases ptePermits k (Mem.pte s.mem s.ptbr (vpnOf va)) <;> simp [eq_comm]

/-- Which fault a failing translation raises: the first check that fails (20 R72); FADDR is the address. -/
theorem State.translate_error (s : State) (k : Access) (va : Word) (f : Raised)
    (h : s.translate k va = .error f) :
    f.info = va ∧
    ((f.code = .segFault ∧ isReservedPage (vpnOf va) = true) ∨
     (f.code = .freeSpaceFault ∧ isReservedPage (vpnOf va) = false ∧
        pteValid (Mem.pte s.mem s.ptbr (vpnOf va)) = false) ∨
     (f.code = protFault k ∧ isReservedPage (vpnOf va) = false ∧
        pteValid (Mem.pte s.mem s.ptbr (vpnOf va)) = true ∧
        ptePermits k (Mem.pte s.mem s.ptbr (vpnOf va)) = false)) := by
  unfold State.translate at h
  split_ifs at h <;> cases h <;> simp_all

/-- A read that succeeds gives the word at the translated address. -/
theorem State.memRead_ok_iff (s : State) (va w : Word) :
    s.memRead va = .ok w ↔ ∃ pa, s.translate .read va = .ok pa ∧ w = s.phys pa := by
  unfold State.memRead
  cases s.translate .read va <;> simp [eq_comm]

/-- A read fails exactly when its translation does. -/
theorem State.memRead_error_iff (s : State) (va : Word) (f : Raised) :
    s.memRead va = .error f ↔ s.translate .read va = .error f := by
  unfold State.memRead
  split <;> simp_all

/-- A write that succeeds changes the one word at the translated address (20 R65). -/
theorem State.memWrite_ok_iff (s t : State) (va v : Word) :
    s.memWrite va v = .ok t ↔ ∃ pa, s.translate .write va = .ok pa ∧ t = s.setPhys pa v := by
  unfold State.memWrite
  cases s.translate .write va <;> simp [eq_comm]

/-- A write fails exactly when its translation does. -/
theorem State.memWrite_error_iff (s : State) (va v : Word) (f : Raised) :
    s.memWrite va v = .error f ↔ s.translate .write va = .error f := by
  unfold State.memWrite
  split <;> simp_all

/-! ## Translation does not see the registers and streams -/

theorem State.translate_congr {s t : State} (hm : t.mem = s.mem) (hp : t.ptbr = s.ptbr) (k : Access) (va : Word) :
    t.translate k va = s.translate k va := by
  simp only [State.translate, hm, hp]

theorem State.memRead_congr {s t : State} (hm : t.mem = s.mem) (hp : t.ptbr = s.ptbr) (va : Word) :
    t.memRead va = s.memRead va := by
  simp only [State.memRead, State.phys, State.translate_congr hm hp, hm]

/-! ## The fields of the entry Allocate writes and of the entry Free leaves -/

/-- Each bit of the entry Allocate writes (45 R202). -/
theorem makePte_getLsbD (f : Page) (w r : Bool) (i : Nat) :
    (makePte f w r).getLsbD i =
      if i = 0 then true else if i = 1 then r else if i = 2 then w else if i < 11 then false
      else f.getLsbD (i - 11) := by
  simp only [makePte, BitVec.getLsbD_append, BitVec.getLsbD_ofBool, BitVec.getLsbD_one, BitVec.getLsbD_zero]
  rcases i with _ | _ | _ | i <;> simp
  by_cases h : i < 8
  · simp [h]
  · simp [h]; omega

theorem makePte_valid (f : Page) (w r : Bool) : pteValid (makePte f w r) = true := by
  simp only [pteValid, makePte_getLsbD]; rfl

theorem makePte_readable (f : Page) (w r : Bool) : pteReadable (makePte f w r) = r := by
  simp only [pteReadable, makePte_getLsbD]; rfl

theorem makePte_writable (f : Page) (w r : Bool) : pteWritable (makePte f w r) = w := by
  simp only [pteWritable, makePte_getLsbD]; rfl

theorem makePte_pfn (f : Page) (w r : Bool) : ptePfn (makePte f w r) = f := by
  apply BitVec.eq_of_getLsbD_eq
  intro i hi
  simp only [ptePfn, BitVec.getLsbD_extractLsb', makePte_getLsbD]
  interval_cases i <;> rfl

theorem clearValid_valid (pte : Word) : pteValid (pte &&& 0xFFFE) = false := by
  simp [pteValid]

theorem clearValid_pfn (pte : Word) : ptePfn (pte &&& 0xFFFE) = ptePfn pte := by
  apply BitVec.eq_of_getLsbD_eq
  intro i hi
  simp only [ptePfn, BitVec.getLsbD_extractLsb', BitVec.getLsbD_and]
  interval_cases i <;> simp

end Sys2Proof.Machine
end

