-- ==== Sys2Proof/Laws/Allocator.lean ====
section
/-! SUPPORT. What Allocate and Free do (spec 45): once for the bitmap, once for each operation. -/

namespace Sys2Proof.Machine

/-! ## The bitmap -/

theorem and_frameBit (w : Word) (f : Nat) : (w &&& frameBit f != 0) = w.getLsbD (f % 16) := by
  have hf : f % 16 < 16 := Nat.mod_lt _ (by decide)
  rw [frameBit_eq]
  generalize f % 16 = i at hf
  by_cases h : w.getLsbD i
  · rw [h, bne_iff_ne]
    intro e
    have := congrArg (fun v => BitVec.getLsbD v i) e
    simp only [BitVec.getLsbD_and, h, BitVec.getLsbD_shiftLeft, hf] at this
    simp at this
  · rw [Bool.eq_false_iff.2 h, bne_eq_false_iff_eq]
    apply BitVec.eq_of_getLsbD_eq
    intro j hj
    by_cases e : j = i
    · subst e; simp [Bool.eq_false_iff.2 h]
    · simp only [BitVec.getLsbD_and, BitVec.getLsbD_shiftLeft, BitVec.getLsbD_one]
      by_cases h1 : j < i
      · simp [h1]
      · have : j - i ≠ 0 := by omega
        simp [this]

theorem isFree_eq (m : Mem) (f : Page) :
    Mem.isFree m f = (Mem.phys m (bitmapAddrOf f)).getLsbD (f.toNat % 16) :=
  and_frameBit _ _

theorem bitmapAddrOf_eq (f : Page) : bitmapAddrOf f = if f.toNat < 16 then 3 else 4 := by
  revert f; decide

theorem frame_ext {f g : Page} (h : bitmapAddrOf f = bitmapAddrOf g) (h' : f.toNat % 16 = g.toNat % 16) :
    f = g := by
  rw [bitmapAddrOf_eq, bitmapAddrOf_eq] at h
  apply BitVec.eq_of_toNat_eq
  have := f.isLt; have := g.isLt
  split_ifs at h <;> first | omega | (exact absurd h (by decide))

theorem getLsbD_frameBit (f i : Nat) (hi : i < 16) : (frameBit f).getLsbD i = decide (i = f % 16) := by
  have hf : f % 16 < 16 := Nat.mod_lt _ (by decide)
  rw [frameBit_eq]
  generalize f % 16 = k at hf
  revert hf hi
  intro hi hf
  interval_cases k <;> interval_cases i <;> decide

theorem isFree_markUsed (m : Mem) (f g : Page) :
    Mem.isFree (Mem.markUsed m f) g = (Mem.isFree m g && decide (f ≠ g)) := by
  have hg : g.toNat % 16 < 16 := Nat.mod_lt _ (by decide)
  simp only [isFree_eq, Mem.markUsed, Mem.phys_setPhys]
  by_cases h : f = g
  · subst h; simp [getLsbD_frameBit _ _ hg]
  · by_cases ha : bitmapAddrOf f = bitmapAddrOf g
    · have : ¬ g.toNat % 16 = f.toNat % 16 := fun e => h (frame_ext ha e.symm)
      simp only [ha, if_true, BitVec.getLsbD_and, BitVec.getLsbD_not, getLsbD_frameBit _ _ hg, this]
      simp [hg, h]
    · simp [ha, h]

theorem isFree_markFree (m : Mem) (f g : Page) :
    Mem.isFree (Mem.markFree m f) g = (Mem.isFree m g || decide (f = g)) := by
  have hg : g.toNat % 16 < 16 := Nat.mod_lt _ (by decide)
  simp only [isFree_eq, Mem.markFree, Mem.phys_setPhys]
  by_cases h : f = g
  · subst h; simp [getLsbD_frameBit _ _ hg]
  · by_cases ha : bitmapAddrOf f = bitmapAddrOf g
    · have : ¬ g.toNat % 16 = f.toNat % 16 := fun e => h (frame_ext ha e.symm)
      simp [ha, h, getLsbD_frameBit _ _ hg, this]
    · simp [ha, h]

/-- A write outside the two bitmap words changes no frame's bit. -/
theorem isFree_setPhys (m : Mem) (a v : Word) (f : Page) (h3 : a ≠ 3) (h4 : a ≠ 4) :
    Mem.isFree (Mem.setPhys m a v) f = Mem.isFree m f := by
  have : a ≠ bitmapAddrOf f := by rw [bitmapAddrOf_eq]; split_ifs <;> assumption
  simp [isFree_eq, this]

/-- Marking a frame changes no word but the two of the bitmap. -/
theorem phys_markUsed (m : Mem) (f : Page) (a : Word) (h3 : a ≠ 3) (h4 : a ≠ 4) :
    Mem.phys (Mem.markUsed m f) a = Mem.phys m a := by
  have : bitmapAddrOf f ≠ a := by rw [bitmapAddrOf_eq]; split_ifs <;> exact Ne.symm ‹_›
  simp [Mem.markUsed, this]

theorem phys_markFree (m : Mem) (f : Page) (a : Word) (h3 : a ≠ 3) (h4 : a ≠ 4) :
    Mem.phys (Mem.markFree m f) a = Mem.phys m a := by
  have : bitmapAddrOf f ≠ a := by rw [bitmapAddrOf_eq]; split_ifs <;> exact Ne.symm ‹_›
  simp [Mem.markFree, this]

theorem mem_pages (f : Page) : f ∈ pages := by revert f; decide

theorem page_trichotomy (f g : Page) : f < g ∨ f = g ∨ g < f := by
  simp only [BitVec.lt_def, ← BitVec.toNat_inj]
  omega

/-- The frame a scan gives is free and no lower one is (45 R202). -/
theorem firstFree_some_iff (m : Mem) (f : Page) :
    Mem.firstFree m = some f ↔ Mem.isFree m f = true ∧ ∀ g : Page, g < f → Mem.isFree m g = false := by
  have hs : pages.Pairwise (· < ·) := by decide
  unfold Mem.firstFree
  constructor
  · intro h
    rw [List.find?_eq_some_iff_append] at h
    obtain ⟨h1, as, bs, e, h2⟩ := h
    refine ⟨h1, fun g hg => ?_⟩
    have hm := mem_pages g
    rw [e] at hm hs
    rcases List.mem_append.1 hm with hm | hm
    · simpa using h2 g hm
    · rcases List.mem_cons.1 hm with rfl | hm
      · exact absurd hg (BitVec.lt_irrefl _)
      · have := (List.pairwise_cons.1 (List.pairwise_append.1 hs).2.1).1 g hm
        exact absurd (BitVec.lt_trans hg this) (BitVec.lt_irrefl _)
  · rintro ⟨h1, h2⟩
    cases hf : pages.find? (Mem.isFree m) with
    | none => exact absurd h1 (by simpa using List.find?_eq_none.1 hf f (mem_pages f))
    | some g =>
      rw [List.find?_eq_some_iff_append] at hf
      obtain ⟨g1, as, bs, e, g2⟩ := hf
      rcases page_trichotomy f g with hlt | rfl | hlt
      · have hm := mem_pages f
        rw [e] at hm hs
        rcases List.mem_append.1 hm with hm | hm
        · have := g2 f hm; simp [h1] at this
        · rcases List.mem_cons.1 hm with rfl | hm
          · rfl
          · have := (List.pairwise_cons.1 (List.pairwise_append.1 hs).2.1).1 f hm
            exact absurd (BitVec.lt_trans hlt this) (BitVec.lt_irrefl _)
      · rfl
      · rw [h2 g hlt] at g1; cases g1

theorem firstFree_none_iff (m : Mem) :
    Mem.firstFree m = none ↔ ∀ f : Page, Mem.isFree m f = false := by
  simp [Mem.firstFree, mem_pages]

/-! ## The two operations -/

/-- Everything Allocate can do (45 R202). -/
theorem allocate_cases (m : Mem) (ptbr : Word) (vpn : Page) (r w : Bool) :
    (Mem.allocate m ptbr vpn r w = .error .alreadyValid ∧ pteValid (Mem.pte m ptbr vpn) = true) ∨
    (Mem.allocate m ptbr vpn r w = .error .noFrame ∧ pteValid (Mem.pte m ptbr vpn) = false ∧
      ∀ f : Page, Mem.isFree m f = false) ∨
    ∃ f, Mem.allocate m ptbr vpn r w =
        .ok (Mem.setPhys (Mem.markUsed m f) (pteAddr ptbr vpn) (makePte f w r)) ∧
      pteValid (Mem.pte m ptbr vpn) = false ∧
      Mem.isFree m f = true ∧ ∀ g : Page, g < f → Mem.isFree m g = false := by
  unfold Mem.allocate
  cases hv : pteValid (Mem.pte m ptbr vpn)
  · right
    cases hf : Mem.firstFree m with
    | none => left; exact ⟨by simp, rfl, (firstFree_none_iff m).1 hf⟩
    | some f => right; exact ⟨f, by simp, rfl, (firstFree_some_iff m f).1 hf⟩
  · left; simp

/-- Everything Free can do (45 R203). -/
theorem free_cases (m : Mem) (vpn : Page) (ptbr : Word) :
    (Mem.free m vpn ptbr = .error .alreadyInvalid ∧ pteValid (Mem.pte m ptbr vpn) = false) ∨
    (Mem.free m vpn ptbr = .ok (Mem.setPhys (Mem.markFree m (ptePfn (Mem.pte m ptbr vpn)))
        (pteAddr ptbr vpn) (Mem.pte m ptbr vpn &&& 0xFFFE)) ∧
      pteValid (Mem.pte m ptbr vpn) = true) := by
  unfold Mem.free
  cases hv : pteValid (Mem.pte m ptbr vpn) <;> simp

/-- Everything a Free whose result is ignored can do. -/
theorem freeQuiet_cases (m : Mem) (vpn : Page) (ptbr : Word) :
    (Mem.freeQuiet m vpn ptbr = m ∧ pteValid (Mem.pte m ptbr vpn) = false) ∨
    (Mem.freeQuiet m vpn ptbr = Mem.setPhys (Mem.markFree m (ptePfn (Mem.pte m ptbr vpn)))
        (pteAddr ptbr vpn) (Mem.pte m ptbr vpn &&& 0xFFFE) ∧
      pteValid (Mem.pte m ptbr vpn) = true) := by
  unfold Mem.freeQuiet
  rcases free_cases m vpn ptbr with ⟨h, hv⟩ | ⟨h, hv⟩ <;> rw [h]
  · exact .inl ⟨rfl, hv⟩
  · exact .inr ⟨rfl, hv⟩

/-! ## The canonical form -/

theorem markUsed_wf {m : Mem} (f : Page) (h : Mem.wf m) : Mem.wf (Mem.markUsed m f) :=
  Mem.setPhys_wf _ _ h

theorem markFree_wf {m : Mem} (f : Page) (h : Mem.wf m) : Mem.wf (Mem.markFree m f) :=
  Mem.setPhys_wf _ _ h

theorem allocate_wf {m m' : Mem} {ptbr : Word} {vpn : Page} {r w : Bool} (h : Mem.wf m)
    (e : Mem.allocate m ptbr vpn r w = .ok m') : Mem.wf m' := by
  rcases allocate_cases m ptbr vpn r w with ⟨h1, _⟩ | ⟨h1, _⟩ | ⟨f, h1, _⟩ <;> rw [h1] at e <;> cases e
  exact Mem.setPhys_wf _ _ (markUsed_wf f h)

theorem free_wf {m m' : Mem} {vpn : Page} {ptbr : Word} (h : Mem.wf m)
    (e : Mem.free m vpn ptbr = .ok m') : Mem.wf m' := by
  rcases free_cases m vpn ptbr with ⟨h1, _⟩ | ⟨h1, _⟩ <;> rw [h1] at e <;> cases e
  exact Mem.setPhys_wf _ _ (markFree_wf _ h)

theorem freeQuiet_wf {m : Mem} (vpn : Page) (ptbr : Word) (h : Mem.wf m) :
    Mem.wf (Mem.freeQuiet m vpn ptbr) := by
  rcases freeQuiet_cases m vpn ptbr with ⟨e, _⟩ | ⟨e, _⟩ <;> rw [e]
  · exact h
  · exact Mem.setPhys_wf _ _ (markFree_wf _ h)

theorem freePages_wf (ptbr : Word) (vs : List Page) : ∀ {m : Mem}, Mem.wf m → Mem.wf (Mem.freePages m ptbr vs) := by
  induction vs with
  | nil => exact fun h => h
  | cons v vs ih => exact fun h => ih (freeQuiet_wf v ptbr h)

end Sys2Proof.Machine
end

