-- ==== Sys2Proof/Laws/Process.lean ====
section
/-! SUPPORT. What the process manager and the scheduler can do (spec 46, 47), and that they keep the canonical form. -/

namespace Sys2Proof.Machine

/-! ## Addresses of the OS structures, with the decided parameters -/

theorem pcbAddr_toNat {p k : Word} (hp : p.toNat < 64) (hk : k.toNat < 3) :
    (pcbAddr p k).toNat = 5 + 3 * p.toNat + k.toNat := by
  simp only [pcbAddr, config_pcbBase, BitVec.toNat_add, BitVec.toNat_mul, BitVec.ofNat_eq_ofNat,
    BitVec.toNat_ofNat]
  omega

theorem pteAddr_toNat {p : Word} (hp : p.toNat < 64) (v : Page) :
    (pteAddr (ptbrOf p) v).toNat = 4096 + 32 * p.toNat + v.toNat := by
  have := v.isLt
  simp only [pteAddr, ptbrOf, config_ptBase, BitVec.toNat_add, BitVec.toNat_mul, BitVec.toNat_setWidth,
    BitVec.ofNat_eq_ofNat, BitVec.toNat_ofNat]
  omega

/-! ## The scan -/

/-- The candidate number k of a scan (47 R241). -/
def Mem.candidate (m : Mem) (cur : Word) (k : Nat) : Word :=
  BitVec.ofNat 16 ((cur.toNat + 1 + k) % (Mem.procCount m).toNat)

theorem candidate_lt {m : Mem} (cur : Word) (k : Nat) (h : 0 < (Mem.procCount m).toNat) :
    (Mem.candidate m cur k).toNat < (Mem.procCount m).toNat := by
  have h1 := Nat.mod_lt (cur.toNat + 1 + k) h
  have h2 := (Mem.procCount m).isLt
  simp only [Mem.candidate, BitVec.toNat_ofNat]
  rw [Nat.mod_eq_of_lt (by omega)]
  exact h1

/-- A scan gives the first live candidate. -/
theorem nextRunnable_some_iff (m : Mem) (cur p : Word) :
    Mem.nextRunnable m cur = some p ↔
      ∃ k < (Mem.procCount m).toNat, p = Mem.candidate m cur k ∧ Mem.pcbPid m p ≠ noPid ∧
        ∀ j < k, Mem.pcbPid m (Mem.candidate m cur j) = noPid := by
  unfold Mem.nextRunnable Mem.candidates
  rw [List.find?_map, Option.map_eq_some_iff]
  constructor
  · rintro ⟨k, h, rfl⟩
    rw [List.find?_range_eq_some] at h
    obtain ⟨h1, h2, h3⟩ := h
    exact ⟨k, List.mem_range.1 h2, rfl, by simpa using h1, fun j hj => by
      simpa [Mem.candidate] using h3 j hj⟩
  · rintro ⟨k, hk, rfl, h1, h2⟩
    refine ⟨k, ?_, rfl⟩
    rw [List.find?_range_eq_some]
    exact ⟨by simpa [Mem.candidate] using h1, List.mem_range.2 hk, fun j hj => by simpa [Mem.candidate] using h2 j hj⟩

/-- A scan gives nothing when no candidate is live. -/
theorem nextRunnable_none_iff (m : Mem) (cur : Word) :
    Mem.nextRunnable m cur = none ↔
      ∀ k < (Mem.procCount m).toNat, Mem.pcbPid m (Mem.candidate m cur k) = noPid := by
  simp [Mem.nextRunnable, Mem.candidates, Mem.candidate]

/-- What a scan gives is a pid below `PROC_COUNT` that is not marked terminated. -/
theorem nextRunnable_live {m : Mem} {cur p : Word} (h : Mem.nextRunnable m cur = some p) :
    p.toNat < (Mem.procCount m).toNat ∧ Mem.pcbPid m p ≠ noPid := by
  obtain ⟨k, hk, rfl, h1, _⟩ := (nextRunnable_some_iff m cur p).1 h
  exact ⟨candidate_lt cur k (by omega), h1⟩

/-! ## Yield, Halt, BRK -/

/-- Everything Yield can do (47 R242): the save, then perhaps a Load of another live pid. -/
theorem yield_cases (s : State) :
    s.yield = s.save (Mem.curPid s.mem) ∨
    ∃ next, Mem.nextRunnable (s.save (Mem.curPid s.mem)).mem (Mem.curPid s.mem) = some next ∧
      next ≠ Mem.curPid s.mem ∧ s.yield = (s.save (Mem.curPid s.mem)).load next := by
  unfold State.yield
  dsimp only
  split
  · split_ifs with h
    · exact .inl rfl
    · exact .inr ⟨_, ‹_›, h, rfl⟩
  · exact .inl rfl

/-- Everything Halt can do (47 R243): the termination, then a Load or the stop. -/
theorem halt_cases (s : State) :
    (Mem.nextRunnable s.terminate.mem (Mem.curPid s.mem) = none ∧ s.halt = s.terminate.setRun false) ∨
    ∃ next, Mem.nextRunnable s.terminate.mem (Mem.curPid s.mem) = some next ∧
      s.halt = s.terminate.load next := by
  unfold State.halt
  split
  · exact .inr ⟨_, ‹_›, rfl⟩
  · exact .inl ⟨‹_›, rfl⟩

/-- Everything BRK can do (44 R191): a diagnostic and nothing else, or the memory of a successful Allocate or
Free on the caller's own table. -/
theorem heapBreak_cases (s : State) :
    (∃ e, s.heapBreak = s.diag e) ∨
    (∃ m, Mem.allocate s.mem s.ptbr (brkVpn (s.reg trapReg)) (brkRead (s.reg trapReg))
        (brkWrite (s.reg trapReg)) = .ok m ∧ isReservedPage (brkVpn (s.reg trapReg)) = false ∧
        brkAllocates (s.reg trapReg) = true ∧ s.heapBreak = s.setMem m) ∨
    (∃ m, Mem.free s.mem (brkVpn (s.reg trapReg)) s.ptbr = .ok m ∧
        brkAllocates (s.reg trapReg) = false ∧ s.heapBreak = s.setMem m) := by
  unfold State.heapBreak
  dsimp only
  cases h : brkAllocates (s.reg trapReg)
  · cases hf : Mem.free s.mem (brkVpn (s.reg trapReg)) s.ptbr with
    | error e => exact .inl ⟨e, by simp [State.finishBrk]⟩
    | ok m => exact .inr (.inr ⟨m, rfl, rfl, by simp [State.finishBrk]⟩)
  · cases hr : isReservedPage (brkVpn (s.reg trapReg))
    · cases ha : Mem.allocate s.mem s.ptbr (brkVpn (s.reg trapReg)) (brkRead (s.reg trapReg))
        (brkWrite (s.reg trapReg)) with
      | error e => exact .inl ⟨e, by simp [State.finishBrk]⟩
      | ok m => exact .inr (.inl ⟨m, rfl, rfl, rfl, by simp [State.finishBrk]⟩)
    · exact .inl ⟨.reservedRegion, by simp⟩

/-! ## The canonical form -/

theorem save_wf {s : State} (cur : Word) (h : Mem.wf s.mem) : Mem.wf (s.save cur).mem :=
  Mem.setPhys_wf _ _ (Mem.setPhys_wf _ _ h)

theorem load_wf {s : State} (pid : Word) (h : Mem.wf s.mem) : Mem.wf (s.load pid).mem :=
  Mem.setPhys_wf _ _ h

theorem terminate_wf {s : State} (h : Mem.wf s.mem) : Mem.wf s.terminate.mem :=
  Mem.setPhys_wf _ _ (freePages_wf _ _ h)

theorem yield_wf {s : State} (h : Mem.wf s.mem) : Mem.wf s.yield.mem := by
  rcases yield_cases s with e | ⟨n, _, _, e⟩ <;> rw [e]
  · exact save_wf _ h
  · exact load_wf _ (save_wf _ h)

theorem halt_wf {s : State} (h : Mem.wf s.mem) : Mem.wf s.halt.mem := by
  rcases halt_cases s with ⟨_, e⟩ | ⟨n, _, e⟩ <;> rw [e]
  · exact terminate_wf h
  · exact load_wf _ (terminate_wf h)

theorem heapBreak_wf {s : State} (h : Mem.wf s.mem) : Mem.wf s.heapBreak.mem := by
  rcases heapBreak_cases s with ⟨_, e⟩ | ⟨m, hm, _, _, e⟩ | ⟨m, hm, _, e⟩ <;> rw [e]
  · exact h
  · exact allocate_wf h hm
  · exact free_wf h hm

theorem writePcb_wf {m : Mem} (pid : Word) (h : Mem.wf m) : Mem.wf (Mem.writePcb m pid) :=
  Mem.setPhys_wf _ _ (Mem.setPhys_wf _ _ (Mem.setPhys_wf _ _ h))

theorem loadImageFrom_wf (ptbr : Word) (v0 : Page) (img : List Word) :
    ∀ {m : Mem} (k : Nat), Mem.wf m → Mem.wf (Mem.loadImageFrom m ptbr v0 k img) := by
  induction img with
  | nil => exact fun _ h => h
  | cons w img ih => exact fun k h => ih (k + 1) (Mem.setPhys_wf _ _ h)

theorem allocateTwo_wf {m : Mem} {ptbr : Word} {v0 : Page} {w : Bool} (h : Mem.wf m) :
    match Mem.allocateTwo m ptbr v0 w with
    | .ok m' => Mem.wf m'
    | .error (_, m') => Mem.wf m' := by
  unfold Mem.allocateTwo
  cases h1 : Mem.allocate m ptbr v0 true w with
  | error e => exact h
  | ok m1 =>
    have w1 := allocate_wf h h1
    dsimp only
    cases h2 : Mem.allocate m1 ptbr (v0 + 1) true w with
    | error e => exact w1
    | ok m2 => exact allocate_wf w1 h2

theorem buildProcess_wf {m : Mem} {pid : Word} {code heap : List Word} (h : Mem.wf m) :
    match Mem.buildProcess m pid code heap with
    | .ok m' => Mem.wf m'
    | .error (_, m') => Mem.wf m' := by
  unfold Mem.buildProcess
  have h1 := allocateTwo_wf (ptbr := ptbrOf pid) (v0 := codeVpn) (w := false) (writePcb_wf pid h)
  cases e1 : Mem.allocateTwo (Mem.writePcb m pid) (ptbrOf pid) codeVpn false with
  | error e => rw [e1] at h1; exact h1
  | ok m1 =>
    rw [e1] at h1
    have h2 := allocateTwo_wf (ptbr := ptbrOf pid) (v0 := heapVpn) (w := true)
      (loadImageFrom_wf (ptbrOf pid) codeVpn code 0 h1)
    dsimp only
    cases e2 : Mem.allocateTwo (Mem.loadImage m1 code (ptbrOf pid) codeVpn) (ptbrOf pid) heapVpn true with
    | error e => rw [Mem.loadImage] at e2; rw [e2] at h2; exact h2
    | ok m2 =>
      rw [Mem.loadImage] at e2; rw [e2] at h2
      exact loadImageFrom_wf _ _ _ _ h2

/-- Create keeps the canonical form, whether it succeeds or fails. -/
theorem create_wf {s : State} (code heap : List Word) (h : Mem.wf s.mem) :
    Mem.wf (s.create code heap).2.mem := by
  unfold State.create
  dsimp only
  split_ifs
  · exact Mem.setPhys_wf _ _ h
  · have hb := buildProcess_wf (pid := Mem.procCount s.mem) (code := code) (heap := heap) h
    split
    · rename_i m e; rw [e] at hb; exact Mem.setPhys_wf _ _ hb
    · rename_i x m e; rw [e] at hb; exact freePages_wf _ _ hb

end Sys2Proof.Machine
end

