-- ==== Sys2Proof/Laws/Exec.lean ====
section
/-! SUPPORT. What executing an instruction, and a step, can do to the machine: the inversion lemmas that
machine-wide statements are proved from. -/

namespace Sys2Proof.Machine

/-- The instructions that store. -/
def isStore : Instr → Bool
  | .st _ _ | .sti _ _ | .str _ _ _ => true
  | _ => false

/-- A change that leaves memory and PTBR alone, and RUN too or cleared. -/
structure RegistersOnly (s t : State) : Prop where
  mem : t.mem = s.mem
  ptbr : t.ptbr = s.ptbr
  phase : t.phase = s.phase
  run : t.run = s.run ∨ t.run = false

theorem RegistersOnly.define (s : State) (dr : Reg) (v : Word) : RegistersOnly s (s.define dr v) :=
  ⟨rfl, rfl, rfl, .inl rfl⟩

theorem RegistersOnly.raise (s : State) (f : Raised) : RegistersOnly s (s.raise f) :=
  ⟨rfl, rfl, rfl, .inr rfl⟩

theorem finishLoad_cases {s t : State} {dr : Reg} {r : Except Raised Word}
    (h : s.finishLoad dr r = .next t) : RegistersOnly s t := by
  cases r <;> cases h
  · exact .raise s _
  · exact .define s dr _

theorem finishStore_cases {s t : State} {r : Except Raised State} (h : s.finishStore r = .next t) :
    RegistersOnly s t ∨ r = .ok t := by
  cases r <;> cases h
  · exact .inl (.raise s _)
  · exact .inr rfl

/-- What a store can do: a fault, or one word at a translated address. -/
theorem store_cases {s t : State} {va v : Word} (h : s.finishStore (s.memWrite va v) = .next t) :
    RegistersOnly s t ∨ ∃ pa, s.translate .write va = .ok pa ∧ t = s.setPhys pa v := by
  rcases finishStore_cases h with h | h
  · exact .inl h
  · exact .inr ((s.memWrite_ok_iff t va v).1 h)

theorem storeIndirect_cases {s t : State} {va v : Word} (h : s.finishStore (s.writeIndirect va v) = .next t) :
    RegistersOnly s t ∨ ∃ ea pa, s.memRead va = .ok ea ∧ s.translate .write ea = .ok pa ∧
      t = s.setPhys pa v := by
  unfold State.writeIndirect at h
  cases hr : s.memRead va with
  | error f => rw [hr] at h; cases h; exact .inl (.raise s f)
  | ok ea =>
    rw [hr] at h
    rcases store_cases h with h | ⟨pa, h⟩
    · exact .inl h
    · exact .inr ⟨ea, pa, rfl, h⟩

theorem conIn_registersOnly (s : State) :
    s.conIn.2.mem = s.mem ∧ s.conIn.2.ptbr = s.ptbr ∧ s.conIn.2.phase = s.phase ∧ s.conIn.2.run = s.run := by
  unfold State.conIn
  split <;> exact ⟨rfl, rfl, rfl, rfl⟩

theorem input_registersOnly (s : State) (v : Word) : RegistersOnly s (s.conIn.2.setReg trapReg v) :=
  have h := conIn_registersOnly s
  ⟨h.1, h.2.1, h.2.2.1, .inl h.2.2.2⟩

/-- Everything an instruction can do to memory, PTBR, RUN and the host's phase. -/
theorem exec_cases {i : Instr} {s t : State} (h : exec i s = .next t) :
    RegistersOnly s t ∨
    (isStore i = true ∧ ∃ va pa v, s.translate .write va = .ok pa ∧ t = s.setPhys pa v) ∨
    (i = .yld ∧ (s.save (Mem.curPid s.mem)).scanDefined = true ∧ t = s.yield) ∨
    (i = .halt ∧ s.terminate.scanDefined = true ∧ t = s.halt) ∨
    (i = .brk ∧ t = s.heapBreak) := by
  cases i <;> simp only [exec] at h
  case br nzp off => cases h; left; split_ifs <;> exact ⟨rfl, rfl, rfl, .inl rfl⟩
  case add | addi | and | andi | not | lea => cases h; exact .inl (.define s _ _)
  case ld | ldi | ldr => exact .inl (finishLoad_cases h)
  case st => exact (store_cases h).imp id fun ⟨pa, h⟩ => .inl ⟨rfl, _, pa, _, h⟩
  case str => exact (store_cases h).imp id fun ⟨pa, h⟩ => .inl ⟨rfl, _, pa, _, h⟩
  case sti => exact (storeIndirect_cases h).imp id fun ⟨ea, pa, _, h⟩ => .inl ⟨rfl, ea, pa, _, h⟩
  case jsr | jsrr | jmp | rsv8 | rsv13 | out | putsp | outu16 =>
    cases h; exact .inl ⟨rfl, rfl, rfl, .inl rfl⟩
  case getc | inu16 => cases h; exact .inl (input_registersOnly s _)
  case inEcho =>
    cases h
    have e := input_registersOnly s s.conIn.1
    exact .inl ⟨e.mem, e.ptbr, e.phase, e.run⟩
  case puts =>
    unfold execPuts at h
    split at h <;> cases h
    · exact .inl ⟨rfl, rfl, rfl, .inl rfl⟩
    · exact .inl ⟨rfl, rfl, rfl, .inr rfl⟩
  case trapIllegal => cases h; exact .inl (.raise s _)
  case yld => unfold execYld at h; split_ifs at h with hs; cases h; exact .inr (.inr (.inl ⟨rfl, hs, rfl⟩))
  case halt =>
    unfold execHalt at h; split_ifs at h with hs; cases h
    exact .inr (.inr (.inr (.inl ⟨rfl, hs, rfl⟩)))
  case brk => cases h; exact .inr (.inr (.inr (.inr ⟨rfl, rfl⟩)))

/-- Everything a step can do. -/
theorem step_cases {s t : State} (h : step s = .next t) :
    (s.engineRuns = false ∧ t = s) ∨
    (s.engineRuns = true ∧ ∃ f, s.fetch = .error f ∧ t = s.raise f) ∨
    (s.engineRuns = true ∧ ∃ w, s.fetch = .ok w ∧ exec (decode w) s.advance = .next t) := by
  unfold step at h
  cases hr : s.engineRuns <;> simp only [hr] at h
  · cases h; exact .inl ⟨rfl, rfl⟩
  · cases hf : s.fetch with
    | error f => rw [hf] at h; cases h; exact .inr (.inl ⟨rfl, f, rfl, rfl⟩)
    | ok w => rw [hf] at h; exact .inr (.inr ⟨rfl, w, rfl, h⟩)

end Sys2Proof.Machine
end

