-- ==== Sys2Proof/Laws/Host.lean ====
section
/-! SUPPORT. What Create and the host commands can do, said once. -/

namespace Sys2Proof.Machine

/-! ## Load and Start by the host -/

@[simp] theorem State.hostLoad_regs (s : State) (pid : Word) : (s.hostLoad pid).regs = s.regs := rfl
@[simp] theorem State.hostLoad_reg (s : State) (pid : Word) (j : Reg) : (s.hostLoad pid).reg j = s.reg j := rfl
@[simp] theorem State.hostLoad_rpc (s : State) (pid : Word) : (s.hostLoad pid).rpc = Mem.pcbPc s.mem pid := rfl
@[simp] theorem State.hostLoad_rcnd (s : State) (pid : Word) : (s.hostLoad pid).rcnd = s.rcnd := rfl
@[simp] theorem State.hostLoad_ptbr (s : State) (pid : Word) : (s.hostLoad pid).ptbr = Mem.pcbPtbr s.mem pid := rfl
@[simp] theorem State.hostLoad_run (s : State) (pid : Word) : (s.hostLoad pid).run = s.run := rfl
@[simp] theorem State.hostLoad_fault (s : State) (pid : Word) : (s.hostLoad pid).fault = s.fault := rfl
@[simp] theorem State.hostLoad_faddr (s : State) (pid : Word) : (s.hostLoad pid).faddr = s.faddr := rfl
@[simp] theorem State.hostLoad_mem (s : State) (pid : Word) :
    (s.hostLoad pid).mem = Mem.setPhys s.mem config.curPidAddr pid := rfl
@[simp] theorem State.hostLoad_consoleIn (s : State) (pid : Word) : (s.hostLoad pid).consoleIn = s.consoleIn := rfl
@[simp] theorem State.hostLoad_consoleOut (s : State) (pid : Word) :
    (s.hostLoad pid).consoleOut = s.consoleOut := rfl
@[simp] theorem State.hostLoad_diagOut (s : State) (pid : Word) : (s.hostLoad pid).diagOut = s.diagOut := rfl
@[simp] theorem State.hostLoad_inputDraws (s : State) (pid : Word) :
    (s.hostLoad pid).inputDraws = s.inputDraws := rfl
@[simp] theorem State.hostLoad_phase (s : State) (pid : Word) : (s.hostLoad pid).phase = .loaded := rfl

@[simp] theorem State.hostStart_mem (s : State) : s.hostStart.mem = s.mem := rfl
@[simp] theorem State.hostStart_ptbr (s : State) : s.hostStart.ptbr = s.ptbr := rfl
@[simp] theorem State.hostStart_run (s : State) : s.hostStart.run = true := rfl
@[simp] theorem State.hostStart_phase (s : State) : s.hostStart.phase = .started := rfl

theorem State.acceptsBoot_iff (s : State) :
    s.acceptsBoot = true ↔ s.run = false ∧ s.fault = 0 ∧ s.phase ≠ .started := by
  simp [State.acceptsBoot, and_assoc]

theorem State.isLivePid_iff (s : State) (pid : Word) :
    s.isLivePid pid = true ↔ pid.toNat < (Mem.procCount s.mem).toNat ∧ Mem.pcbPid s.mem pid = pid := by
  simp [State.isLivePid]

/-! ## Create -/

/-- Create is refused at a full table, succeeds with the pid `PROC_COUNT`, or fails and rolls back. -/
theorem State.create_cases (s : State) (code heap : List Word) :
    (Mem.tableFull s.mem = true ∧ s.create code heap =
      (none, (s.setPhys config.osStatusAddr (Mem.osStatus s.mem ||| fullFlag)).diag .tableFull)) ∨
    (∃ m, Mem.tableFull s.mem = false ∧ Mem.buildProcess s.mem (Mem.procCount s.mem) code heap = .ok m ∧
      s.create code heap = (some (Mem.procCount s.mem),
        s.setMem (Mem.setPhys m config.procCountAddr (Mem.procCount s.mem + 1)))) ∨
    (∃ e m, Mem.tableFull s.mem = false ∧
      Mem.buildProcess s.mem (Mem.procCount s.mem) code heap = .error (e, m) ∧
      s.create code heap = (none, (s.setMem (Mem.rollback m (Mem.procCount s.mem))).diag e)) := by
  unfold State.create
  cases hf : Mem.tableFull s.mem
  · cases hb : Mem.buildProcess s.mem (Mem.procCount s.mem) code heap with
    | ok m => exact .inr (.inl ⟨m, rfl, rfl, by simp [hb]⟩)
    | error em => exact .inr (.inr ⟨em.1, em.2, rfl, rfl, by simp [hb]⟩)
  · exact .inl ⟨rfl, rfl⟩

/-! ## The commands -/

/-- Everything an accepted host command can do. -/
theorem hostAct_cases {c : Command} {s t : State} {r : Reply} (h : hostAct c s = .next (r, t)) :
    (c = .reset ∧ r = .done ∧ t = s.hostReset) ∨
    (∃ code heap, c = .create code heap ∧ s.acceptsBoot = true ∧ code.length ≤ 4096 ∧ heap.length ≤ 4096 ∧
      r = createReply (s.create code heap).1 ∧ t = (s.create code heap).2) ∨
    (∃ pid, c = .load pid ∧ s.acceptsBoot = true ∧ s.isLivePid pid = true ∧ r = .done ∧ t = s.hostLoad pid) ∨
    (c = .start ∧ s.acceptsBoot = true ∧ s.phase = .loaded ∧ r = .done ∧ t = s.hostStart) ∨
    (∃ items, c = .input items ∧ r = .done ∧ t = { s with consoleIn := s.consoleIn ++ items }) ∨
    (c = .readOut ∧ s.run = false ∧ r = .observed s.readOut ∧ t = s) := by
  cases c <;> simp only [hostAct] at h
  case reset => cases h; exact .inl ⟨rfl, rfl, rfl⟩
  case create code heap =>
    split_ifs at h with ha hl
    cases h
    obtain ⟨hc, hh⟩ : code.length ≤ 4096 ∧ heap.length ≤ 4096 := by
      simpa [config, not_or] using hl
    exact .inr (.inl ⟨code, heap, rfl, by simpa using ha, hc, hh, rfl, rfl⟩)
  case load pid =>
    split_ifs at h with ha
    cases h
    rw [Bool.and_eq_true] at ha
    exact .inr (.inr (.inl ⟨pid, rfl, ha.1, ha.2, rfl, rfl⟩))
  case start =>
    split_ifs at h with ha
    cases h
    rw [Bool.and_eq_true, beq_iff_eq] at ha
    exact .inr (.inr (.inr (.inl ⟨rfl, ha.1, ha.2, rfl, rfl⟩)))
  case input items => cases h; exact .inr (.inr (.inr (.inr (.inl ⟨items, rfl, rfl, rfl⟩))))
  case readOut =>
    split_ifs at h with hr
    cases h
    exact .inr (.inr (.inr (.inr (.inr ⟨rfl, by simpa using hr, rfl, rfl⟩))))

end Sys2Proof.Machine
end

