-- ==== Sys2Proof/Laws/PerInstr.lean ====
section
/-! SUPPORT. The per-instruction family EncodingMatchesRow: the canonical word of each instruction is one of its
row's words in spec/opcode_table.json. -/

namespace Sys2Proof

/-- The word the encoder writes for the instruction matches the instruction's own row of the opcode table. -/
def Laws.EncodingMatchesRow.Statement (i : Instr) : Prop := (rowOf i).matches (encode i) = true

/-- A word matches a row when it agrees with the pattern on the mask, bit by bit. -/
theorem Laws.row_matches_of_bits {r : OpcodeRow} {w : Word}
    (h : ∀ j < 16, (w.getLsbD j && r.mask.getLsbD j) = r.pattern.getLsbD j) : r.matches w = true := by
  rw [OpcodeRow.matches, beq_iff_eq]
  apply BitVec.eq_of_getLsbD_eq
  intro j hj
  rw [BitVec.getLsbD_and]
  exact h j hj

theorem Laws.EncodingMatchesRow.br (nzp : BitVec 3) (off : BitVec 9) :
    Laws.EncodingMatchesRow.Statement (.br nzp off) := by
  apply Laws.row_matches_of_bits
  intro j hj
  simp only [encode, rowOf, BitVec.getLsbD_append]
  interval_cases j <;> simp

theorem Laws.EncodingMatchesRow.add (dr : Reg) (sr1 : Reg) (sr2 : Reg) :
    Laws.EncodingMatchesRow.Statement (.add dr sr1 sr2) := by
  apply Laws.row_matches_of_bits
  intro j hj
  simp only [encode, rowOf, BitVec.getLsbD_append]
  interval_cases j <;> simp

theorem Laws.EncodingMatchesRow.addi (dr : Reg) (sr1 : Reg) (imm : BitVec 5) :
    Laws.EncodingMatchesRow.Statement (.addi dr sr1 imm) := by
  apply Laws.row_matches_of_bits
  intro j hj
  simp only [encode, rowOf, BitVec.getLsbD_append]
  interval_cases j <;> simp

theorem Laws.EncodingMatchesRow.ld (dr : Reg) (off : BitVec 9) :
    Laws.EncodingMatchesRow.Statement (.ld dr off) := by
  apply Laws.row_matches_of_bits
  intro j hj
  simp only [encode, rowOf, BitVec.getLsbD_append]
  interval_cases j <;> simp

theorem Laws.EncodingMatchesRow.st (sr : Reg) (off : BitVec 9) :
    Laws.EncodingMatchesRow.Statement (.st sr off) := by
  apply Laws.row_matches_of_bits
  intro j hj
  simp only [encode, rowOf, BitVec.getLsbD_append]
  interval_cases j <;> simp

theorem Laws.EncodingMatchesRow.jsr (off : BitVec 11) :
    Laws.EncodingMatchesRow.Statement (.jsr off) := by
  apply Laws.row_matches_of_bits
  intro j hj
  simp only [encode, rowOf, BitVec.getLsbD_append]
  interval_cases j <;> simp

theorem Laws.EncodingMatchesRow.jsrr (base : Reg) :
    Laws.EncodingMatchesRow.Statement (.jsrr base) := by
  apply Laws.row_matches_of_bits
  intro j hj
  simp only [encode, rowOf, BitVec.getLsbD_append]
  interval_cases j <;> simp

theorem Laws.EncodingMatchesRow.and (dr : Reg) (sr1 : Reg) (sr2 : Reg) :
    Laws.EncodingMatchesRow.Statement (.and dr sr1 sr2) := by
  apply Laws.row_matches_of_bits
  intro j hj
  simp only [encode, rowOf, BitVec.getLsbD_append]
  interval_cases j <;> simp

theorem Laws.EncodingMatchesRow.andi (dr : Reg) (sr1 : Reg) (imm : BitVec 5) :
    Laws.EncodingMatchesRow.Statement (.andi dr sr1 imm) := by
  apply Laws.row_matches_of_bits
  intro j hj
  simp only [encode, rowOf, BitVec.getLsbD_append]
  interval_cases j <;> simp

theorem Laws.EncodingMatchesRow.ldr (dr : Reg) (base : Reg) (off : BitVec 6) :
    Laws.EncodingMatchesRow.Statement (.ldr dr base off) := by
  apply Laws.row_matches_of_bits
  intro j hj
  simp only [encode, rowOf, BitVec.getLsbD_append]
  interval_cases j <;> simp

theorem Laws.EncodingMatchesRow.str (sr : Reg) (base : Reg) (off : BitVec 6) :
    Laws.EncodingMatchesRow.Statement (.str sr base off) := by
  apply Laws.row_matches_of_bits
  intro j hj
  simp only [encode, rowOf, BitVec.getLsbD_append]
  interval_cases j <;> simp

theorem Laws.EncodingMatchesRow.rsv8 :
    Laws.EncodingMatchesRow.Statement .rsv8 := by
  unfold Laws.EncodingMatchesRow.Statement; decide

theorem Laws.EncodingMatchesRow.not (dr : Reg) (sr1 : Reg) :
    Laws.EncodingMatchesRow.Statement (.not dr sr1) := by
  apply Laws.row_matches_of_bits
  intro j hj
  simp only [encode, rowOf, BitVec.getLsbD_append]
  interval_cases j <;> simp

theorem Laws.EncodingMatchesRow.ldi (dr : Reg) (off : BitVec 9) :
    Laws.EncodingMatchesRow.Statement (.ldi dr off) := by
  apply Laws.row_matches_of_bits
  intro j hj
  simp only [encode, rowOf, BitVec.getLsbD_append]
  interval_cases j <;> simp

theorem Laws.EncodingMatchesRow.sti (sr : Reg) (off : BitVec 9) :
    Laws.EncodingMatchesRow.Statement (.sti sr off) := by
  apply Laws.row_matches_of_bits
  intro j hj
  simp only [encode, rowOf, BitVec.getLsbD_append]
  interval_cases j <;> simp

theorem Laws.EncodingMatchesRow.jmp (base : Reg) :
    Laws.EncodingMatchesRow.Statement (.jmp base) := by
  apply Laws.row_matches_of_bits
  intro j hj
  simp only [encode, rowOf, BitVec.getLsbD_append]
  interval_cases j <;> simp

theorem Laws.EncodingMatchesRow.rsv13 :
    Laws.EncodingMatchesRow.Statement .rsv13 := by
  unfold Laws.EncodingMatchesRow.Statement; decide

theorem Laws.EncodingMatchesRow.lea (dr : Reg) (off : BitVec 9) :
    Laws.EncodingMatchesRow.Statement (.lea dr off) := by
  apply Laws.row_matches_of_bits
  intro j hj
  simp only [encode, rowOf, BitVec.getLsbD_append]
  interval_cases j <;> simp

theorem Laws.EncodingMatchesRow.getc :
    Laws.EncodingMatchesRow.Statement .getc := by
  unfold Laws.EncodingMatchesRow.Statement; decide

theorem Laws.EncodingMatchesRow.out :
    Laws.EncodingMatchesRow.Statement .out := by
  unfold Laws.EncodingMatchesRow.Statement; decide

theorem Laws.EncodingMatchesRow.puts :
    Laws.EncodingMatchesRow.Statement .puts := by
  unfold Laws.EncodingMatchesRow.Statement; decide

theorem Laws.EncodingMatchesRow.inEcho :
    Laws.EncodingMatchesRow.Statement .inEcho := by
  unfold Laws.EncodingMatchesRow.Statement; decide

theorem Laws.EncodingMatchesRow.putsp :
    Laws.EncodingMatchesRow.Statement .putsp := by
  unfold Laws.EncodingMatchesRow.Statement; decide

theorem Laws.EncodingMatchesRow.halt :
    Laws.EncodingMatchesRow.Statement .halt := by
  unfold Laws.EncodingMatchesRow.Statement; decide

theorem Laws.EncodingMatchesRow.inu16 :
    Laws.EncodingMatchesRow.Statement .inu16 := by
  unfold Laws.EncodingMatchesRow.Statement; decide

theorem Laws.EncodingMatchesRow.outu16 :
    Laws.EncodingMatchesRow.Statement .outu16 := by
  unfold Laws.EncodingMatchesRow.Statement; decide

theorem Laws.EncodingMatchesRow.yld :
    Laws.EncodingMatchesRow.Statement .yld := by
  unfold Laws.EncodingMatchesRow.Statement; decide

theorem Laws.EncodingMatchesRow.brk :
    Laws.EncodingMatchesRow.Statement .brk := by
  unfold Laws.EncodingMatchesRow.Statement; decide

theorem Laws.EncodingMatchesRow.trapIllegal (ignored : BitVec 4) (vect : Byte) :
    Laws.EncodingMatchesRow.Statement (.trapIllegal ignored vect) := by
  apply Laws.row_matches_of_bits
  intro j hj
  simp only [encode, trapWord, rowOf, BitVec.getLsbD_append]
  interval_cases j <;> simp

end Sys2Proof
end

