-- ==== Sys2Proof/Machine/Assembly.lean ====
section
/-! DEFINITION. The assembler forms and pseudo-instructions of spec 30 R112, R113, as data: a line is a mnemonic and
its operands. Labels, comments and the spelling of numbers are left to the reader of the text. Log entry 19. -/

namespace Sys2Proof

/-- An operand of an assembler line (30 R112). -/
inductive AsmOperand where
  /-- `R0` to `R7`. -/
  | reg (r : Reg)
  /-- `#n`, decimal, possibly negative. -/
  | dec (n : Int)
  /-- `xNN`, hexadecimal. -/
  | hex (n : Nat)
  deriving DecidableEq, Repr

/-- One line without its comment (30 R112). -/
structure AsmLine where
  /-- The mnemonic, as R112 and R113 spell it. -/
  mnemonic : String
  /-- The operands, in the order written. -/
  operands : List AsmOperand
  deriving DecidableEq, Repr

/-- A signed number as a field of n bits, if it fits (30 R105). -/
def signedField (n : Nat) (v : Int) : Option (BitVec n) :=
  if (BitVec.ofInt n v).toInt = v then some (BitVec.ofInt n v) else none

/-- The letters of a branch give the mask bits n, z, p; no letters are `nzp` (30 R112, R113). -/
def branchMask (mnemonic : String) : Option (BitVec 3) :=
  match mnemonic with
  | "BRn" => some 0b100
  | "BRz" => some 0b010
  | "BRp" => some 0b001
  | "BRnz" => some 0b110
  | "BRnp" => some 0b101
  | "BRzp" => some 0b011
  | "BRnzp" => some 0b111
  | "BR" => some 0b111
  | _ => none

/-- The vector of a trap's own name (30 R113). -/
def trapAlias (mnemonic : String) : Option Byte :=
  match mnemonic with
  | "GETC" => some 0x20
  | "OUT" => some 0x21
  | "PUTS" => some 0x22
  | "IN" => some 0x23
  | "PUTSP" => some 0x24
  | "HALT" => some 0x25
  | "INU16" => some 0x26
  | "OUTU16" => some 0x27
  | "YLD" => some 0x28
  | "BRK" => some 0x29
  | _ => none

/-- The instruction a line stands for (30 R112, R113); none for a line of no form, an operand out of range, and
`.FILL`, which stands for a word and not for an instruction. -/
def AsmLine.instr (l : AsmLine) : Option Instr :=
  match l.mnemonic, l.operands with
  | "ADD", [.reg d, .reg a, .reg b] => some (.add d a b)
  | "ADD", [.reg d, .reg a, .dec n] => (signedField 5 n).map (.addi d a)
  | "AND", [.reg d, .reg a, .reg b] => some (.and d a b)
  | "AND", [.reg d, .reg a, .dec n] => (signedField 5 n).map (.andi d a)
  | "NOT", [.reg d, .reg a] => some (.not d a)
  | "LD", [.reg d, .dec n] => (signedField 9 n).map (.ld d)
  | "LDI", [.reg d, .dec n] => (signedField 9 n).map (.ldi d)
  | "LEA", [.reg d, .dec n] => (signedField 9 n).map (.lea d)
  | "ST", [.reg r, .dec n] => (signedField 9 n).map (.st r)
  | "STI", [.reg r, .dec n] => (signedField 9 n).map (.sti r)
  | "LDR", [.reg d, .reg b, .dec n] => (signedField 6 n).map (.ldr d b)
  | "STR", [.reg r, .reg b, .dec n] => (signedField 6 n).map (.str r b)
  | "JMP", [.reg b] => some (.jmp b)
  | "RET", [] => some Instr.ret
  | "NOP", [] => some Instr.nop
  | "JSR", [.dec n] => (signedField 11 n).map .jsr
  | "JSRR", [.reg b] => some (.jsrr b)
  | "TRAP", [.hex v] => if v < 256 then some (decodeTrap 0 (BitVec.ofNat 8 v)) else none
  | m, [.dec n] =>
    match branchMask m, signedField 9 n with
    | some nzp, some off => some (.br nzp off)
    | _, _ => none
  | m, [] => (trapAlias m).map (decodeTrap 0)
  | _, _ => none

/-- The word a line stands for: its instruction's canonical word, or the data word of `.FILL` (30 R112). -/
def AsmLine.word (l : AsmLine) : Option Word :=
  match l.mnemonic, l.operands with
  | ".FILL", [.hex n] => if n < 65536 then some (BitVec.ofNat 16 n) else none
  | _, _ => l.instr.map encode

end Sys2Proof
end

