-- ==== Sys2Proof/Tests/Slice0.lean ====
section
/-! SUPPORT. Tests: expected values are those of spec 95_test_vectors.md (named V-...) or worked out from the rule
cited; and for every statement with hypotheses a state that meets them. -/

namespace Sys2Proof.Tests

set_option Elab.async false

open Sys2Proof.Machine

/-! ## Helpers -/

/-- The fresh machine of 95: Reset, Create(code, heap), Load(0), Start. -/
def fresh (code heap : List Word) : State := State.reset.boot code heap

/-- The state an outcome goes on in, if it does. -/
def onward (r : Result) : Option State :=
  match r with
  | .next t => some t
  | _ => none

/-- One field after one step. -/
def after {α : Type} (s : State) (f : State → α) : Option α := (onward (step s)).map f

/-- A fresh machine about to execute one word, with R1 and R2 preset. -/
def one (w r1 r2 : Word) : State := ((fresh [w] []).setReg 1 r1).setReg 2 r2

/-- The record and registers a fault leaves: FAULT, FADDR, RUN, RPC. -/
def faultView (s : State) : BitVec 3 × Word × Bool × Word := (s.fault, s.faddr, s.run, s.rpc)

/-- Two processes, pid 0 running (program P3 of 95 after Start). -/
def two : State :=
  (((State.reset.create [0xF028] []).2.create [0xF025] []).2.hostLoad 0).hostStart

/-- One process, halted. -/
def halted : State := (fresh [0xF025] []).terminate.setRun false

/-! ## Well-formedness, decoding, encoding -/

/-- The one check of WellFormed: 0x25 is in the trap table, so it is no illegal TRAP (30 R109). -/
theorem test_illegal_trap_vector_refused : WellFormed (.trapIllegal 0 0x25) = false := by decide

theorem test_wellformed_vector_bounds :
    WellFormed (.trapIllegal 0 0x1F) = true ∧ WellFormed (.trapIllegal 0 0x20) = false ∧
    WellFormed (.trapIllegal 0 0x29) = false ∧ WellFormed (.trapIllegal 0 0x2A) = true := by decide

/-- Formats RRR, RRI, RR (30 R103). -/
theorem test_decode_alu :
    decode 0b0001_001_010_0_00_011 = .add 1 2 3 ∧ decode 0b0001_111_110_1_10000 = .addi 7 6 0b10000 ∧
    decode 0b0101_100_011_0_11_010 = .and 4 3 2 ∧ decode 0b0101_000_101_1_01111 = .andi 0 5 0b01111 ∧
    decode 0b1001_010_001_111111 = .not 2 1 := by decide

/-- Formats RO9, SO9, RBO6, SBO6 (30 R103). -/
theorem test_decode_load_store :
    decode 0b0010_001_000000010 = .ld 1 2 ∧ decode 0b1010_111_100000000 = .ldi 7 0b100000000 ∧
    decode 0b0110_011_010_100000 = .ldr 3 2 0b100000 ∧ decode 0b1110_000_011111111 = .lea 0 0b011111111 ∧
    decode 0b0011_110_111111111 = .st 6 0b111111111 ∧ decode 0b1011_101_000000001 = .sti 5 1 ∧
    decode 0b0111_001_010_000001 = .str 1 2 1 := by decide

/-- Formats BR, JMP, JSR, JSRR, and the reserved opcodes (30 R103, R110). -/
theorem test_decode_control :
    decode 0b0000_101_111111101 = .br 0b101 0b111111101 ∧ decode 0b1100_000_111_000000 = .jmp 7 ∧
    decode 0b0100_1_10000000000 = .jsr 0b10000000000 ∧ decode 0b0100_0_00_010_000000 = .jsrr 2 ∧
    decode 0b1000_101010111100 = .rsv8 ∧ decode 0b1101_111111111111 = .rsv13 := by decide

/-- The trap table (30 R107), with bits 11:8 ignored (R108), and both sides of it (R109). -/
theorem test_decode_trap :
    decode 0b1111_0000_00100000 = .getc ∧ decode 0b1111_0000_00100001 = .out ∧
    decode 0b1111_0000_00100010 = .puts ∧ decode 0b1111_0000_00100011 = .inEcho ∧
    decode 0b1111_1111_00100100 = .putsp ∧ decode 0b1111_0000_00100101 = .halt ∧
    decode 0b1111_0000_00100110 = .inu16 ∧ decode 0b1111_0000_00100111 = .outu16 ∧
    decode 0b1111_0000_00101000 = .yld ∧ decode 0b1111_0000_00101001 = .brk ∧
    decode 0b1111_0101_00011111 = .trapIllegal 0b0101 0x1F ∧
    decode 0b1111_0000_00101010 = .trapIllegal 0 0x2A := by decide

/-- Canonical words (30 R108, 95). -/
theorem test_encode :
    encode (.add 1 2 3) = 0x1283 ∧ encode (.not 1 2) = 0x92BF ∧ encode (.str 1 2 1) = 0x7281 ∧
    encode (.jsrr 7) = 0x41C0 ∧ encode .brk = 0xF029 := by decide

/-- 30 R112, R113; the lines of programs P1 and P4. -/
theorem test_assembly :
    AsmLine.word ⟨"BRp", [.dec (-3)]⟩ = some 0x03FD ∧ AsmLine.word ⟨"RET", []⟩ = some 0xC1C0 ∧
    AsmLine.word ⟨"LDR", [.reg 4, .reg 1, .dec 0]⟩ = some 0x6840 ∧ AsmLine.word ⟨"BRK", []⟩ = some 0xF029 ∧
    AsmLine.word ⟨"ADD", [.reg 1, .reg 1, .dec 16]⟩ = none := by decide

/-! ## Reset and boot -/

/-- V-PM-1: the OS words, the PCB and the page table after the first Create, Load and Start. -/
theorem test_fresh_machine :
    (let s := fresh [0x2202] [];
      [0, 1, 2, 3, 4, 5, 6, 7, 0x1006, 0x1007, 0x1008, 0x1009, 0x1800].map s.phys ++ [s.rpc, s.ptbr]) =
    [0x0000, 0x0001, 0x0000, 0xFF80, 0xFFFF, 0x0000, 0x3000, 0x1000, 0x1803, 0x2003, 0x2807, 0x3007, 0x2202,
      0x3000, 0x1000] := by decide +kernel

/-- withFetchWord: the next step runs the word, from Reset (log 14). -/
theorem test_with_fetch_word :
    after (State.reset.withFetchWord 16 0x127F) (fun t => t.reg 1) = some 0xFFFF := by decide +kernel

/-! ## ALU: 95 part 2.1 -/

/-- V-ALU-3: signed overflow is not reported. -/
theorem test_add : after (one 0x1042 0x7FFF 0x0001) (fun t => (t.reg 0, t.rcnd, t.rpc)) =
    some (0x8000, 0b100, 0x3001) := by decide +kernel

/-- V-ALU-4: the source is the destination. -/
theorem test_add_same_register : after (one 0x1241 0x4000 0) (fun t => (t.reg 1, t.rcnd)) =
    some (0x8000, 0b100) := by decide +kernel

/-- V-ALU-7: the most negative immediate. -/
theorem test_addi : after (one 0x1270 0x0010 0) (fun t => (t.reg 1, t.rcnd)) = some (0x0000, 0b010) := by
  decide +kernel

/-- V-ALU-10 with the registers R1, R2: AND R1,R2,R1. -/
theorem test_and : after (one 0x5281 0x0FF0 0xFF0F) (fun t => (t.reg 1, t.rcnd)) = some (0x0F00, 0b001) := by
  decide +kernel

/-- V-ALU-12: the immediate is sign-extended before the AND. -/
theorem test_andi : after (one 0x5270 0xABCD 0) (fun t => (t.reg 1, t.rcnd)) = some (0xABC0, 0b100) := by
  decide +kernel

/-- V-ALU-17: a word of NOT that is not canonical. -/
theorem test_not : after (one 0x9040 0x00FF 0) (fun t => (t.reg 0, t.rcnd)) = some (0xFF00, 0b100) := by
  decide +kernel

/-! ## Loads and stores: 95 part 2.2 -/

/-- V-LS-1. -/
theorem test_ld : after (fresh [0x2202, 0, 0, 0xBEEF] []) (fun t => (t.reg 1, t.rcnd)) =
    some (0xBEEF, 0b100) := by decide +kernel

/-- V-LS-3. -/
theorem test_ldi : after (fresh [0xA202, 0, 0, 0x4000] [0x1234]) (fun t => (t.reg 1, t.rcnd)) =
    some (0x1234, 0b001) := by decide +kernel

/-- V-LS-5: base plus offset wraps to an unmapped page; R1 is not written. -/
theorem test_ldr_faults : after (one 0x627F 0 0) (fun t => (faultView t, t.reg 1, t.rcnd)) =
    some ((2, 0xFFFF, false, 0x3001), 0x0000, 0b010) := by decide +kernel

/-- V-LS-4. -/
theorem test_ldr : after ((fresh [0x6281] [0, 0xAB]).setReg 2 0x4000) (fun t => t.reg 1) = some 0x00AB := by
  decide +kernel

/-- V-LS-7. -/
theorem test_lea : after (fresh [0xE1FF] []) (fun t => (t.reg 0, t.rcnd)) = some (0x3000, 0b001) := by
  decide +kernel

/-- V-LS-9: a store into a code page. -/
theorem test_st_faults : after (one 0x3202 7 0) (fun t => (faultView t, t.phys 0x1803, t.diagOut)) =
    some ((4, 0x3003, false, 0x3001), 0x0000, [.fatal .writeProtFault 0x3003]) := by decide +kernel

/-- ST from a heap page, which is writable: the instruction at 0x4000, the word at 0x4003 (41 R145). -/
theorem test_st : after (((fresh [] [0x3202]).setRpc 0x4000).setReg 1 7) (fun t => t.phys 0x2803) =
    some 0x0007 := by decide +kernel

/-- V-LS-10. -/
theorem test_sti : after ((fresh [0xB202, 0, 0, 0x4005] []).setReg 1 0xAB) (fun t => t.phys 0x2805) =
    some 0x00AB := by decide +kernel

/-- V-LS-11: also the flags stay. -/
theorem test_str : after (one 0x7281 0xAB 0x4000) (fun t => (t.phys 0x2801, t.rcnd)) = some (0x00AB, 0b010) := by
  decide +kernel

/-! ## Control: 95 part 2.3 -/

/-- V-CT-4 and V-CT-3: RCND = Z. -/
theorem test_br : after (fresh [0x0405] []) State.rpc = some 0x3006 ∧
    after (fresh [0x0805] []) State.rpc = some 0x3001 := by decide +kernel

/-- V-CT-6. -/
theorem test_br_to_itself : after (fresh [0x0FFF] []) State.rpc = some 0x3000 := by decide +kernel

/-- V-CT-8. -/
theorem test_jmp : after ((fresh [0xC1C0] []).setReg 7 0x3005) State.rpc = some 0x3005 := by decide +kernel

/-- V-CT-9, its second step: the fetch faults with RPC not incremented. -/
theorem test_fetch_faults : after ((fresh [0xC040] []).setRpc 0x0000) faultView =
    some (1, 0x0000, false, 0x0000) := by decide +kernel

/-- V-CT-11. -/
theorem test_jsr : after (fresh [0x4C00] []) (fun t => (t.reg 7, t.rpc, t.rcnd)) =
    some (0x3001, 0x2C01, 0b010) := by decide +kernel

/-- V-CT-14: the base register is R7. -/
theorem test_jsrr : after ((fresh [0x41C0] []).setReg 7 0x3100) (fun t => (t.reg 7, t.rpc)) =
    some (0x3001, 0x3100) := by decide +kernel

/-- V-CT-15 and V-CT-16: nothing but RPC changes. -/
theorem test_reserved_opcodes :
    after (fresh [0x8ABC] []) id = some ((fresh [0x8ABC] []).setRpc 0x3001) ∧
    after (fresh [0xDFFF] []) id = some ((fresh [0xDFFF] []).setRpc 0x3001) := by decide +kernel

/-! ## Console: 95 part 2.4 -/

/-- A fresh machine with one item waiting. -/
def typed (w item : Word) : State := { fresh [w] [] with consoleIn := [item] }

/-- V-IO-1. -/
theorem test_getc : after (typed 0xF020 0x0041) (fun t => (t.reg 0, t.consoleOut, t.consoleIn)) =
    some (0x0041, [], []) := by decide +kernel

/-- V-IO-2. -/
theorem test_in : after (typed 0xF023 0x0062) (fun t => (t.reg 0, t.consoleOut)) = some (0x0062, [0x62]) := by
  decide +kernel

/-- V-IO-3. -/
theorem test_out : after ((fresh [0xF021] []).setReg 0 0x0141) State.consoleOut = some [0x41] := by
  decide +kernel

/-- V-IO-4. -/
theorem test_puts : after ((fresh [0xF022] [0x0048, 0x0169, 0]).setReg 0 0x4000)
    (fun t => (t.consoleOut, t.reg 0)) = some ([0x48, 0x69], 0x4000) := by decide +kernel

/-- V-IO-6, with the last two heap words placed: output before the fault stays. -/
theorem test_puts_faults :
    after ((((fresh [0xF022] []).setPhys 0x37FE 0x41).setPhys 0x37FF 0x41).setReg 0 0x4FFE)
      (fun t => (t.consoleOut, faultView t)) = some ([0x41, 0x41], 2, 0x5000, false, 0x3001) := by
  decide +kernel

/-- V-IO-8. -/
theorem test_putsp : after (fresh [0xFF24] []) id = some ((fresh [0xFF24] []).setRpc 0x3001) := by decide +kernel

/-- V-IO-9. -/
theorem test_inu16 : after (typed 0xF026 1234) (fun t => t.reg 0) = some 0x04D2 := by decide +kernel

/-- V-IO-10: "15" and a newline. -/
theorem test_outu16 : after ((fresh [0xF027] []).setReg 0 0x000F) State.consoleOut = some [0x31, 0x35, 0x0A] := by
  decide +kernel

/-- V-IO-11 and V-IO-12: "65535", "0". -/
theorem test_outu16_bounds :
    after ((fresh [0xF027] []).setReg 0 0xFFFF) State.consoleOut = some [0x36, 0x35, 0x35, 0x33, 0x35, 0x0A] ∧
    after (fresh [0xF027] []) State.consoleOut = some [0x30, 0x0A] := by decide +kernel

/-- V-IO-15. -/
theorem test_illegal_trap : after (fresh [0xF02A] []) faultView = some (5, 0xF02A, false, 0x3001) := by
  decide +kernel

/-! ## OS traps: 95 parts 2.5, 2.9, programs P3, P4 -/

/-- P3, step 2: pid 1 is loaded, pid 0's RPC saved. -/
theorem test_yld : after two (fun t => (t.rpc, t.ptbr, t.phys 0, t.phys 6)) =
    some (0x3000, 0x1020, 0x0001, 0x3001) := by decide +kernel

/-- V-OS-8, step 1: the save happens, no Load. -/
theorem test_yld_alone : after (fresh [0xF028] []) (fun t => (t.rpc, t.phys 0, t.phys 6)) =
    some (0x3001, 0x0000, 0x3001) := by decide +kernel

/-- P4, step 2: frame 7 goes to page 10. -/
theorem test_brk_allocates : after ((fresh [0xF029] []).setReg 0 0x5007)
    (fun t => (t.phys 0x100A, t.phys 3, t.diagOut)) = some (0x3807, 0xFF00, []) := by decide +kernel

/-- V-OS-3 and V-OS-4: page 1 is reserved, page 10 is not mapped. -/
theorem test_brk_reports :
    after ((fresh [0xF029] []).setReg 0 0x0807) State.diagOut = some [.recoverable .reservedRegion] ∧
    after ((fresh [0xF029] []).setReg 0 0x5000) State.diagOut = some [.recoverable .alreadyInvalid] := by
  decide +kernel

/-- V-SC-1. -/
theorem test_halt : after (fresh [0xF025] [])
    (fun t => ([0x1006, 0x1007, 0x1008, 0x1009, 3, 5].map t.phys, t.run, t.rpc)) =
    some ([0x1802, 0x2002, 0x2806, 0x3006, 0xFFF8, 0xFFFF], false, 0x3001) := by decide +kernel

/-- P3, step 6, from its state after step 2: pid 1 halts and pid 0 resumes where it yielded. -/
theorem test_halt_switches :
    ((onward (step two)).bind fun t => onward (step t)).map (fun t => (t.rpc, t.ptbr, t.phys 0, t.phys 8)) =
    some (0x3001, 0x1000, 0x0000, 0xFFFF) := by decide +kernel

/-- V-SC-3: pids 0 and 1 of three, pid 0 terminated. -/
theorem test_next_runnable :
    Mem.nextRunnable (((State.reset.setPhys 1 3).setPhys 5 0xFFFF).setPhys 8 1).mem 2 = some 1 := by
  decide +kernel

/-- The scan's total is read where Halt scans (47 R241, R243): here PTBR is 0x0000, so that the frees clear bit 0 of
`PROC_COUNT`, the entry of page 1 (log 9). -/
theorem test_halt_scan_undefined :
    (match exec .halt (State.reset.setPhys 1 1) with
      | .fault .scanOverNoProcesses => true
      | _ => false) = true := by decide +kernel

/-- 70 R312: after Reset no run has ended. -/
theorem test_reset_has_not_ended : ¬ State.reset.Stopped ∧ halted.Stopped := by decide +kernel

/-- V-FA-1, V-FA-3 and V-FA-9. -/
theorem test_allocate :
    (match Mem.allocate State.reset.mem 0x1000 6 true false with
      | .ok m => (Mem.phys m 0x1006, Mem.phys m 3, Mem.allocate m 0x1000 6 true true == .error .alreadyValid)
      | .error _ => (0, 0, false)) = (0x1803, 0xFFF0, true) ∧
    (match Mem.allocate ((State.reset.setPhys 3 0).setPhys 4 1).mem 0x1000 6 false false with
      | .ok m => Mem.phys m 0x1006
      | .error _ => 0) = 0x8001 := by decide +kernel

/-- V-PM-8: 64 pids are used up. -/
theorem test_create_table_full :
    (let r := (State.reset.setPhys 1 0x0040).create [] [];
      (r.1, r.2.phys 2, r.2.diagOut)) = (none, 0x0001, [.recoverable .tableFull]) := by decide +kernel

/-- V-TR-6: a valid page without R. -/
theorem test_read_protection :
    ((fresh [] []).setPhys 0x100A 0x3805).memRead 0x5000 = .error ⟨.readProtFault, 0x5000⟩ := by decide +kernel

/-! ## The hypotheses of the statements can be met -/

/-- What OsInv says of a state with one process, as a finite check. -/
abbrev OneProcessCheck (s : State) : Prop :=
  s.count = 1 ∧
  (∀ v : Page, s.Maps 0 v → 3 ≤ (s.frameOf 0 v).toNat ∧ ¬ FrameFree s (s.frameOf 0 v) ∧ ¬ v.toNat < 3 ∧
    s.pidWord 0 ≠ 0xFFFF) ∧
  (∀ f : Page, if f.toNat < 3 then ¬ FrameFree s f
    else ¬ FrameFree s f → ∃ v : Page, s.Maps 0 v ∧ s.frameOf 0 v = f) ∧
  (∀ v u : Page, s.Maps 0 v → s.Maps 0 u → s.frameOf 0 v = s.frameOf 0 u → v = u) ∧
  (∀ p : BitVec 6, p ≠ 0 → ∀ v : Page, ¬ s.Maps (p.setWidth 16) v) ∧
  (s.pidWord 0 = 0 ∨ s.pidWord 0 = 0xFFFF) ∧ s.savedPtbr 0 = 0x1000 ∧
  (s.run = true → s.phys 0x0000 = 0 ∧ s.pidWord 0 = 0 ∧ s.ptbr = 0x1000)

/-- The finite check gives the invariants. -/
theorem osInv_of_oneProcess {s : State} (h : OneProcessCheck s) : s.OsInv := by
  obtain ⟨hc, hm, hf, hu, hb, hp, hq, hr⟩ := h
  have only (p : Word) (hlt : p.toNat < s.count) : p = 0 := by
    apply BitVec.eq_of_toNat_eq
    rw [hc] at hlt
    simpa using hlt
  refine ⟨by omega, ?_, ?_, ?_, ?_, ?_, ?_, ?_, ?_, ?_, ?_⟩
  · intro p v hlt hv
    obtain rfl := only p hlt
    exact ⟨(hm v hv).1, (hm v hv).2.1⟩
  · intro f h3 hused
    have := hf f
    rw [if_neg (by omega)] at this
    obtain ⟨v, hv, hvf⟩ := this hused
    exact ⟨0, v, by simp [hc], hv, hvf⟩
  · intro f h3
    have := hf f
    rwa [if_pos h3] at this
  · intro p q v u hlp hlq hv hu' heq
    obtain rfl := only p hlp
    obtain rfl := only q hlq
    exact ⟨rfl, hu v u hv hu' heq⟩
  · intro p v hlt h3 hv
    obtain rfl := only p hlt
    exact (hm v hv).2.2.1 h3
  · intro p v hlt hdead hv
    obtain rfl := only p hlt
    exact (hm v hv).2.2.2 hdead
  · intro p v hge hlt
    have hw : p = (BitVec.ofNat 6 p.toNat).setWidth 16 := by
      apply BitVec.eq_of_toNat_eq
      simp
      omega
    rw [hw]
    refine hb _ ?_ v
    intro h0
    have := congrArg BitVec.toNat h0
    simp at this
    omega
  · intro p hlt
    obtain rfl := only p hlt
    exact hp
  · intro p hlt
    obtain rfl := only p hlt
    simpa using hq
  · intro hrun
    obtain ⟨h0, h1, h2⟩ := hr hrun
    rw [State.CurrentIsLive, h0, h2, h1, hc]
    simp

/-- A running process about to store R1 through R2. -/
def storing : State := one 0x7281 0xAB 0x4000

/-- One created process that maps all 29 frames, not started. -/
def full : State :=
  (((List.range 29).foldl
    (fun s k => s.setPhys (0x1003 + BitVec.ofNat 16 k) (BitVec.ofNat 16 ((k + 3) * 2048 + 7)))
    (State.reset.setPhys 1 1)).setPhys 3 0).setPhys 4 0 |>.setPhys 7 0x1000

/-- One process, created and loaded, not started. -/
def loaded : State := (State.reset.create [0xF025] []).2.hostLoad 0

theorem witness_OsInv_running : storing.OsInv ∧ storing.run = true :=
  ⟨osInv_of_oneProcess (by decide +kernel), by decide +kernel⟩

theorem witness_OsInv_full : full.OsInv ∧ full.run = false :=
  ⟨osInv_of_oneProcess (by decide +kernel), by decide +kernel⟩

theorem witness_OsInv_halted : halted.OsInv ∧ halted.procState 0 = .terminated ∧ step halted = .next halted :=
  ⟨osInv_of_oneProcess (by decide +kernel), by decide +kernel, rfl⟩

theorem witness_MachineInv_running : storing.MachineInv ∧ storing.run = true ∧ storing.fault = 0 :=
  ⟨⟨witness_OsInv_running.1, by decide +kernel, by decide +kernel⟩, by decide +kernel⟩

/-- HostCommandsKeepInvariants: the machine before Start, which accepts Start. -/
theorem witness_MachineInv_loaded : loaded.MachineInv ∧ hostAct .start loaded = .next (.done, loaded.hostStart) :=
  ⟨⟨osInv_of_oneProcess (by decide +kernel), by decide +kernel, by decide +kernel⟩, rfl⟩

/-- ExactlyOneRowMatchesEveryWord. -/
theorem witness_row : WellFormed (.add 1 2 3) = true ∧ (rowOf (.add 1 2 3)).matches 0x129B = true ∧
    (rowOf (.add 1 2 3)).mnemonic ≠ "TRAP_ILLEGAL" := by decide

/-- IgnoredBitsDoNotMatter: two words of one instruction. -/
theorem witness_ignored_bits :
    (0x1283#16 &&& ~~~ ignoredMask (decode 0x1283)) = 0x129B#16 &&& ~~~ ignoredMask (decode 0x1283) := by decide

/-- TranslatedReadChecksInOrder, each branch at its boundary (V-TR-2, V-TR-3, V-TR-6, V-TR-4). -/
theorem witness_translated_read :
    ((fresh [] []).setPhys 0x1002 0xFFFF).memRead 0x17FF = .error ⟨.segFault, 0x17FF⟩ ∧
    (fresh [] []).memRead 0x1800 = .error ⟨.freeSpaceFault, 0x1800⟩ ∧
    ((fresh [] []).setPhys 0x100A 0x3805).memRead 0x5000 = .error ⟨.readProtFault, 0x5000⟩ ∧
    (fresh [0xBEEF] []).memRead 0x3000 = .ok 0xBEEF := by decide +kernel

/-- TranslatedWriteChecksInOrder, each branch (V-TR-5, V-TR-7). -/
theorem witness_translated_write :
    (fresh [] []).memWrite 0x17FF 1 = .error ⟨.segFault, 0x17FF⟩ ∧
    (fresh [] []).memWrite 0x1800 1 = .error ⟨.freeSpaceFault, 0x1800⟩ ∧
    (fresh [] []).memWrite 0x3001 1 = .error ⟨.writeProtFault, 0x3001⟩ ∧
    ((fresh [] []).setPhys 0x100A 0x3805).memWrite 0x5000 1 =
      .ok (((fresh [] []).setPhys 0x100A 0x3805).setPhys 0x3800 1) := by decide +kernel

/-- LD, LDR: a read that succeeds and one that fails. -/
theorem witness_load :
    (fresh [0, 0, 0xBEEF] []).memRead ((fresh [0, 0, 0xBEEF] []).rpc + BitVec.ofInt 16 (2#9).toInt) = .ok 0xBEEF ∧
    ((fresh [] []).setRpc 0x17FE).memRead (0x17FE + BitVec.ofInt 16 (1#9).toInt) =
      .error ⟨.segFault, 0x17FF⟩ ∧
    (one 0 0 0x4000).memRead ((one 0 0 0x4000).reg 2 + BitVec.ofInt 16 (1#6).toInt) = .ok 0 ∧
    (one 0 0 0x4000).memRead ((one 0 0 0x4000).reg 1 + BitVec.ofInt 16 (63#6).toInt) =
      .error ⟨.freeSpaceFault, 0xFFFF⟩ := by decide +kernel

/-- LDI: both reads succeed; the second fails; the first fails. -/
theorem witness_indirect_load :
    ((fresh [0x4000] [0x1234]).memRead 0x3000 = .ok 0x4000 ∧
      (fresh [0x4000] [0x1234]).memRead 0x4000 = .ok 0x1234) ∧
    ((fresh [0x5000] []).memRead 0x3000 = .ok 0x5000 ∧
      (fresh [0x5000] []).memRead 0x5000 = .error ⟨.freeSpaceFault, 0x5000⟩) ∧
    (fresh [] []).memRead 0x0000 = .error ⟨.segFault, 0x0000⟩ := by decide +kernel

/-- ST, STR, STI: a write that succeeds and one that fails; the pointer of STI can be read. -/
theorem witness_store :
    (fresh [] []).translate .write 0x4001 = .ok 0x2801 ∧
    (fresh [] []).translate .write 0x3003 = .error ⟨.writeProtFault, 0x3003⟩ ∧
    (fresh [0x4001, 0x3003] []).memRead 0x3000 = .ok 0x4001 ∧
    (fresh [0x4001, 0x3003] []).memRead 0x3001 = .ok 0x3003 := by decide +kernel

/-- BR with mask 111; StepKeepsOneFlagSet. -/
theorem witness_one_flag : State.reset.OneFlag ∧ step State.reset = .next State.reset :=
  ⟨by decide, rfl⟩

/-- TrapOutsideTableRaisesIllegalTrap: both sides of the table. -/
theorem witness_trap_vectors :
    ((0x1F#8).toNat < 0x20 ∨ 0x29 < (0x1F#8).toNat) ∧ ((0x2A#8).toNat < 0x20 ∨ 0x29 < (0x2A#8).toNat) := by
  decide

/-- GETC, IN, INU16 with an item waiting, and without one. -/
theorem witness_input :
    (typed 0xF020 0x41).consoleIn = 0x41 :: [] ∧ (fresh [0xF020] []).consoleIn = [] := by decide +kernel

/-- PUTS: a string of two characters in the heap. -/
theorem witness_puts_string :
    let s := (fresh [0xF022] [0x48, 0x169]).setReg 0 0x4000
    let ws : List Word := [0x48, 0x169]
    (∀ k w, ws[k]? = some w → w ≠ 0 ∧ s.memRead (s.reg 0 + BitVec.ofNat 16 k) = .ok w) ∧
      s.memRead (s.reg 0 + BitVec.ofNat 16 ws.length) = .ok 0 := by
  refine ⟨?_, by decide +kernel⟩
  rintro (_ | _ | k) w h
  · obtain rfl := Option.some.inj h
    decide +kernel
  · obtain rfl := Option.some.inj h
    decide +kernel
  · simp at h

/-- PUTS: the walk leaves the heap after one character. -/
theorem witness_puts_fault :
    let s := ((fresh [0xF022] []).setPhys 0x37FF 0x41).setReg 0 0x4FFF
    let ws : List Word := [0x41]
    (∀ k w, ws[k]? = some w → w ≠ 0 ∧ s.memRead (s.reg 0 + BitVec.ofNat 16 k) = .ok w) ∧
      s.memRead (s.reg 0 + BitVec.ofNat 16 ws.length) = .error ⟨.freeSpaceFault, 0x5000⟩ := by
  refine ⟨?_, by decide +kernel⟩
  rintro (_ | k) w h
  · obtain rfl := Option.some.inj h
    decide +kernel
  · simp at h

/-- YLD: another process is found, the caller is found, none is found. -/
theorem witness_yld :
    (two.phys 0 = 0 ∧ two.count ≤ 64 ∧ (0 : Word).toNat < two.count ∧ two.scanCandidate 0 0 = 1 ∧
      two.pidWord 1 ≠ 0xFFFF) ∧
    (storing.count ≤ 64 ∧ (0 : Word).toNat < storing.count ∧ storing.scanCandidate 0 0 = 0 ∧
      storing.pidWord 0 ≠ 0xFFFF) ∧
    (halted.phys 0 = 0 ∧ (0 : Word).toNat < halted.count ∧
      ∀ k < halted.count, halted.pidWord (halted.scanCandidate 0 k) = 0xFFFF) := by decide +kernel

/-- HALT: a successor is found, none is found. -/
theorem witness_halt :
    (two.phys 0 = 0 ∧ two.count ≤ 64 ∧ (0 : Word).toNat < two.count ∧ two.ptbr = 0x1000 + 32 * 0 ∧
      two.scanCandidate 0 0 = 1 ∧ two.pidWord 1 ≠ 0xFFFF) ∧
    (storing.phys 0 = 0 ∧ storing.ptbr = 0x1000 + 32 * 0 ∧
      ∀ k < storing.count, storing.scanCandidate 0 k = 0 ∨ storing.pidWord (storing.scanCandidate 0 k) = 0xFFFF) := by
  decide +kernel

/-- RunEndsWellOrByFault with witness_MachineInv_running: a HALT that stops, and a step that faults. -/
theorem witness_run_ends : (onward (exec .halt storing)).map State.run = some false ∧
    (onward (step (storing.setRpc 0))).map State.run = some false := by decide +kernel

/-- BRK, each case at a boundary: pages 2 and 3, a mapped page, no frame, a free frame, both frees. -/
theorem witness_brk :
    ((0x1001#16).getLsbD 0 = true ∧ (0x1001#16).toNat / 2048 < 3) ∧
    ((0x4001#16).getLsbD 0 = true ∧ 3 ≤ (0x4001#16).toNat / 2048 ∧ (storing.phys 0x1008).getLsbD 0 = true) ∧
    ((0x1801#16).getLsbD 0 = true ∧ 3 ≤ (0x1801#16).toNat / 2048 ∧ (storing.phys 0x1003).getLsbD 0 = false ∧
      ∀ f : Page, ¬ FrameFree ((storing.setPhys 3 0).setPhys 4 0) f) ∧
    (FrameFree storing 7 ∧ ∀ g : Page, g.toNat < (7 : Page).toNat → ¬ FrameFree storing g) ∧
    ((0x1800#16).getLsbD 0 = false ∧ (storing.phys 0x1003).getLsbD 0 = false) ∧
    ((0x4000#16).getLsbD 0 = false ∧ (storing.phys 0x1008).getLsbD 0 = true) := by decide +kernel

/-- ScanOverNoProcessesStops. -/
theorem witness_no_processes :
    let s := State.reset.setPtbr 0x1000
    s.phys 0x0001 = 0 ∧ (s.phys 0x0000).toNat < 64 ∧ s.ptbr = 0x1000 + 32 * 0 := by decide +kernel

/-- EveryInstructionCompletes. -/
theorem witness_completes : (storing.phys 0x0000).toNat < storing.count ∧ storing.count ≤ 64 ∧
    storing.ptbr = 0x1000 + 32 * 0 := by decide +kernel

/-- AllocateThenFreeRestoresBitmap, AllocatorConservesFrames. -/
theorem witness_allocator :
    (∃ m, Mem.allocate State.reset.mem (0x1000 + 32 * 0) 6 true false = .ok m) ∧
    (∃ m, Mem.free storing.mem 6 (0x1000 + 32 * 0) = .ok m) ∧ ¬ FrameFree storing (storing.frameOf 0 6) :=
  ⟨⟨_, rfl⟩, ⟨_, rfl⟩, by decide +kernel⟩

/-- StepRunsDecodedInstruction and FailedFetchRaisesItsFault. -/
theorem witness_fetch :
    (storing.run = true ∧ storing.fault = 0 ∧ storing.memRead storing.rpc = .ok 0x7281 ∧
      decode 0x7281 = .str 1 2 1) ∧
    (storing.setRpc 0).memRead 0 = .error ⟨.segFault, 0⟩ ∧ (storing.setRpc 0).run = true ∧
      (storing.setRpc 0).fault = 0 := by decide +kernel

/-- StoppedAndFaultedMachinesStay; StepKeepsMemoryCanonical. -/
theorem witness_stopped : State.reset.run = false ∧ (State.reset.raise ⟨.segFault, 0⟩).fault ≠ 0 ∧
    Mem.wf State.reset.mem := by decide

/-- StoresReachOnlyOwnWritablePages, OnlyOsTrapsChangeOsMemory, OnlyYldAndHaltSwitchProcess with
witness_OsInv_running: the step's store changes a word above the OS frames. -/
theorem witness_store_changes_memory :
    (onward (exec (.str 1 2 1) storing)).map (fun t => t.phys 0x2801) = some 0x00AB ∧
    storing.phys 0x2801 = 0x0000 ∧ 0x1800 ≤ (0x2801#16).toNat := by decide +kernel

/-- RcndIsReadOnlyByBrAndWrittenByDestinations: JMP goes on. -/
theorem witness_rcnd : exec (.jmp 0) State.reset = .next State.reset := rfl

/-- StoredWordIsReadBack with witness_OsInv_running. -/
theorem witness_stored_word :
    (∃ t, storing.memWrite 0x4000 5 = .ok t) ∧ storing.translate .read 0x4000 = .ok 0x2800 :=
  ⟨⟨storing.setPhys 0x2800 5, by decide +kernel⟩, by decide +kernel⟩

/-- HostCommandsFollowProtocol: Create is accepted and returns pid 0, Create without frames returns failure, and Load
and read-out are accepted. -/
theorem witness_host_commands :
    hostAct (.create [0xF025] []) State.reset = .next (.created 0, (State.reset.create [0xF025] []).2) ∧
    hostAct (.create [] []) full = .next (.createFailed, (full.create [] []).2) ∧
    hostAct (.load 0) (State.reset.create [0xF025] []).2 = .next (.done, loaded) ∧
    hostAct .readOut halted = .next (.observed halted.readOut, halted) :=
  ⟨rfl, rfl, rfl, rfl⟩

/-- FailedCreateLeaksNoFrame and HostCommandsKeepInvariants with witness_OsInv_full: no frame is left. -/
theorem witness_failed_create : full.count < 64 ∧ (full.phys 0x0002).getLsbD 0 = false ∧
    (full.create [] []).1 = none := by decide +kernel

end Sys2Proof.Tests
end

section
/-! Proofs about the words of the OS in memory: where they lie, and what each memory operation does to them. -/

namespace Sys2Proof.Machine

/-! ## Addresses -/

theorem word_ne_of_toNat {a b : Word} (h : a.toNat ≠ b.toNat) : a ≠ b :=
  fun e => h (congrArg BitVec.toNat e)

/-- Entries of the 64 page tables have addresses of their own. -/
theorem pteAddr_ptbrOf_inj {p q : Word} {v u : Page} (hp : p.toNat < 64) (hq : q.toNat < 64)
    (h : pteAddr (ptbrOf p) v = pteAddr (ptbrOf q) u) : p = q ∧ v = u := by
  have e := congrArg BitVec.toNat h
  rw [pteAddr_toNat hp, pteAddr_toNat hq] at e
  have hv := v.isLt
  have hu := u.isLt
  exact ⟨BitVec.eq_of_toNat_eq (by omega), BitVec.eq_of_toNat_eq (by omega)⟩

/-- Words of the 64 PCBs have addresses of their own. -/
theorem pcbAddr_inj {p q k j : Word} (hp : p.toNat < 64) (hq : q.toNat < 64) (hk : k.toNat < 3)
    (hj : j.toNat < 3) (h : pcbAddr p k = pcbAddr q j) : p = q ∧ k = j := by
  have e := congrArg BitVec.toNat h
  rw [pcbAddr_toNat hp hk, pcbAddr_toNat hq hj] at e
  exact ⟨BitVec.eq_of_toNat_eq (by omega), BitVec.eq_of_toNat_eq (by omega)⟩

theorem pcbAddr_eq_iff {p q k j : Word} (hp : p.toNat < 64) (hq : q.toNat < 64) (hk : k.toNat < 3)
    (hj : j.toNat < 3) : pcbAddr p k = pcbAddr q j ↔ p = q ∧ k = j :=
  ⟨pcbAddr_inj hp hq hk hj, fun ⟨hpq, hkj⟩ => by rw [hpq, hkj]⟩

/-- A page table lies above the PCBs and below frame 3 (00 R11). -/
theorem pteAddr_bounds {p : Word} (hp : p.toNat < 64) (v : Page) :
    0x1000 ≤ (pteAddr (ptbrOf p) v).toNat ∧ (pteAddr (ptbrOf p) v).toNat < 0x1800 := by
  have := v.isLt
  rw [pteAddr_toNat hp]
  omega

/-- A PCB lies above the bitmap and below the page tables (00 R11). -/
theorem pcbAddr_bounds {p k : Word} (hp : p.toNat < 64) (hk : k.toNat < 3) :
    5 ≤ (pcbAddr p k).toNat ∧ (pcbAddr p k).toNat < 0x1000 := by
  rw [pcbAddr_toNat hp hk]
  omega

theorem pteAddr_ne {p a : Word} (hp : p.toNat < 64) (v : Page) (ha : a.toNat < 0x1000 ∨ 0x1800 ≤ a.toNat) :
    a ≠ pteAddr (ptbrOf p) v :=
  word_ne_of_toNat (by have := pteAddr_bounds hp v; omega)

theorem pcbAddr_ne {p k a : Word} (hp : p.toNat < 64) (hk : k.toNat < 3)
    (ha : a.toNat < 5 ∨ 0x1000 ≤ a.toNat) : a ≠ pcbAddr p k :=
  word_ne_of_toNat (by have := pcbAddr_bounds hp hk; omega)

/-- A frame from 3 on lies above the words of the OS (20 R62). -/
theorem physAddr_ge {f : Page} (off : BitVec 11) (h : 3 ≤ f.toNat) : 0x1800 ≤ (physAddr f off).toNat := by
  rw [physAddr_toNat]
  omega

/-- A write to a frame from 3 on changes no word of the OS. -/
theorem phys_setPhys_low {m : Mem} {pa a w : Word} (hpa : 0x1800 ≤ pa.toNat) (ha : a.toNat < 0x1800) :
    Mem.phys (Mem.setPhys m pa w) a = Mem.phys m a := by
  rw [Mem.phys_setPhys, if_neg (word_ne_of_toNat (by omega))]

/-! ## The entry of a page in the table of a pid -/

/-- The entry of virtual page v in the page table of pid p (10 R46): `State.pteOf` over a memory. -/
def Mem.entry (m : Mem) (p : Word) (v : Page) : Word := Mem.pte m (ptbrOf p) v

theorem entry_setPhys_table {p q : Word} (hp : p.toNat < 64) (hq : q.toNat < 64) (m : Mem) (v u : Page)
    (w : Word) :
    Mem.entry (Mem.setPhys m (pteAddr (ptbrOf p) v) w) q u = if p = q ∧ v = u then w else Mem.entry m q u := by
  unfold Mem.entry Mem.pte
  rw [Mem.phys_setPhys]
  by_cases h : p = q ∧ v = u
  · rw [if_pos h, if_pos (by rw [h.1, h.2])]
  · rw [if_neg h, if_neg fun e => h (pteAddr_ptbrOf_inj hp hq e)]

/-- A write outside the page tables changes no entry. -/
theorem entry_setPhys_other {q : Word} (hq : q.toNat < 64) (m : Mem) (u : Page) {a : Word} (w : Word)
    (ha : a.toNat < 0x1000 ∨ 0x1800 ≤ a.toNat) : Mem.entry (Mem.setPhys m a w) q u = Mem.entry m q u := by
  unfold Mem.entry Mem.pte
  rw [Mem.phys_setPhys, if_neg (pteAddr_ne hq u ha)]

theorem bitmapAddrOf_lt (f : Page) : (bitmapAddrOf f).toNat < 0x1000 := by
  rw [bitmapAddrOf_eq]
  split_ifs <;> decide

theorem entry_markUsed {q : Word} (hq : q.toNat < 64) (m : Mem) (f u : Page) :
    Mem.entry (Mem.markUsed m f) q u = Mem.entry m q u :=
  entry_setPhys_other hq m u _ (.inl (bitmapAddrOf_lt f))

theorem entry_markFree {q : Word} (hq : q.toNat < 64) (m : Mem) (f u : Page) :
    Mem.entry (Mem.markFree m f) q u = Mem.entry m q u :=
  entry_setPhys_other hq m u _ (.inl (bitmapAddrOf_lt f))

/-- A write to a page table changes no frame's bit. -/
theorem isFree_setPhys_table {p : Word} (hp : p.toNat < 64) (m : Mem) (v f : Page) (w : Word) :
    Mem.isFree (Mem.setPhys m (pteAddr (ptbrOf p) v) w) f = Mem.isFree m f :=
  isFree_setPhys m _ w f (pteAddr_ne hp v (by decide)).symm (pteAddr_ne hp v (by decide)).symm

/-! ## Allocate and Free on the table of a pid: what becomes of every entry and every frame -/

/-- What a successful Allocate does to the entries and the bitmap: the page gets an entry that names a frame that
was free, and that frame becomes used. -/
theorem allocate_ok {m m' : Mem} {p : Word} {v : Page} {r w : Bool} (hp : p.toNat < 64)
    (e : Mem.allocate m (ptbrOf p) v r w = .ok m') :
    ∃ f, pteValid (Mem.entry m p v) = false ∧ Mem.isFree m f = true ∧
      (∀ g, Mem.isFree m' g = (Mem.isFree m g && decide (f ≠ g))) ∧
      ∀ (q : Word) (u : Page), q.toNat < 64 →
        Mem.entry m' q u = if p = q ∧ v = u then makePte f w r else Mem.entry m q u := by
  rcases allocate_cases m (ptbrOf p) v r w with ⟨h, _⟩ | ⟨h, _⟩ | ⟨f, h, hv, hf, _⟩ <;> rw [h] at e <;> cases e
  refine ⟨f, hv, hf, fun g => ?_, fun q u hq => ?_⟩
  · rw [isFree_setPhys_table hp, isFree_markUsed]
  · rw [entry_setPhys_table hp hq, entry_markUsed hq]

/-- What a Free whose result is ignored does to the entries and the bitmap: nothing where the page is not mapped;
otherwise the entry loses V and its frame becomes free. -/
theorem freeQuiet_effect {p : Word} (hp : p.toNat < 64) (m : Mem) (v : Page) :
    (Mem.freeQuiet m v (ptbrOf p) = m ∧ pteValid (Mem.entry m p v) = false) ∨
    (pteValid (Mem.entry m p v) = true ∧
      (∀ g, Mem.isFree (Mem.freeQuiet m v (ptbrOf p)) g =
        (Mem.isFree m g || decide (ptePfn (Mem.entry m p v) = g))) ∧
      ∀ (q : Word) (u : Page), q.toNat < 64 → Mem.entry (Mem.freeQuiet m v (ptbrOf p)) q u =
        if p = q ∧ v = u then Mem.entry m p v &&& 0xFFFE else Mem.entry m q u) := by
  rcases freeQuiet_cases m v (ptbrOf p) with h | ⟨h, hv⟩
  · exact .inl h
  · refine .inr ⟨hv, fun g => ?_, fun q u hq => ?_⟩ <;> rw [h]
    · rw [isFree_setPhys_table hp, isFree_markFree]; rfl
    · rw [entry_setPhys_table hp hq, entry_markFree hq]; rfl

/-- A Free that succeeds is the quiet Free. -/
theorem freeQuiet_eq_of_free {m m' : Mem} {v : Page} {ptbr : Word} (e : Mem.free m v ptbr = .ok m') :
    Mem.freeQuiet m v ptbr = m' := by
  rw [Mem.freeQuiet, e]

theorem freeQuiet_unmaps {p : Word} (hp : p.toNat < 64) (m : Mem) (v : Page) :
    pteValid (Mem.entry (Mem.freeQuiet m v (ptbrOf p)) p v) = false := by
  rcases freeQuiet_effect hp m v with ⟨h, hv⟩ | ⟨_, _, h⟩
  · rw [h, hv]
  · rw [h p v hp, if_pos ⟨rfl, rfl⟩, clearValid_valid]

/-- Free maps nothing. -/
theorem freeQuiet_keeps_unmapped {p q : Word} {u : Page} {m : Mem} (hp : p.toNat < 64) (hq : q.toNat < 64)
    (v : Page) (hu : pteValid (Mem.entry m q u) = false) :
    pteValid (Mem.entry (Mem.freeQuiet m v (ptbrOf p)) q u) = false := by
  rcases freeQuiet_effect hp m v with ⟨h, _⟩ | ⟨_, _, h⟩
  · rw [h, hu]
  · rw [h q u hq]
    split_ifs
    · exact clearValid_valid _
    · exact hu

theorem freePages_keeps_unmapped {p q : Word} {u : Page} (hp : p.toNat < 64) (hq : q.toNat < 64)
    (vs : List Page) : ∀ {m : Mem}, pteValid (Mem.entry m q u) = false →
      pteValid (Mem.entry (Mem.freePages m (ptbrOf p) vs) q u) = false := by
  induction vs with
  | nil => exact fun h => h
  | cons v vs ih => exact fun h => ih (freeQuiet_keeps_unmapped hp hq v h)

/-- After Frees of several pages none of them is mapped. -/
theorem freePages_unmaps {p : Word} (hp : p.toNat < 64) {v : Page} (vs : List Page) (hv : v ∈ vs) :
    ∀ m : Mem, pteValid (Mem.entry (Mem.freePages m (ptbrOf p) vs) p v) = false := by
  induction vs with
  | nil => cases hv
  | cons u vs ih =>
    intro m
    rcases List.mem_cons.1 hv with rfl | hv
    · exact freePages_keeps_unmapped hp hp vs (freeQuiet_unmaps hp m v)
    · exact ih hv _

/-! ## Changes confined to the bitmap and to some entries of one table -/

/-- Below frame 3, the two memories differ at most in the bitmap and in the entries of the pages `vs` of pid p. -/
def TableOnly (p : Word) (vs : List Page) (m m' : Mem) : Prop :=
  ∀ a : Word, a.toNat < 0x1800 → a ≠ 3 → a ≠ 4 → (∀ v ∈ vs, a ≠ pteAddr (ptbrOf p) v) →
    Mem.phys m' a = Mem.phys m a

theorem TableOnly.refl (p : Word) (vs : List Page) (m : Mem) : TableOnly p vs m m :=
  fun _ _ _ _ _ => rfl

theorem TableOnly.trans {p : Word} {vs : List Page} {m1 m2 m3 : Mem} (h : TableOnly p vs m1 m2)
    (h' : TableOnly p vs m2 m3) : TableOnly p vs m1 m3 :=
  fun a ha h3 h4 hv => (h' a ha h3 h4 hv).trans (h a ha h3 h4 hv)

theorem TableOnly.of_low {p : Word} {vs : List Page} {m m' : Mem}
    (h : ∀ a : Word, a.toNat < 0x1800 → Mem.phys m' a = Mem.phys m a) : TableOnly p vs m m' :=
  fun a ha _ _ _ => h a ha

/-- The three OS words before the bitmap keep their values. -/
theorem TableOnly.phys_lt_three {p : Word} {vs : List Page} {m m' : Mem} (h : TableOnly p vs m m')
    (hp : p.toNat < 64) {a : Word} (ha : a.toNat < 3) : Mem.phys m' a = Mem.phys m a :=
  h a (by omega) (word_ne_of_toNat (by simp; omega)) (word_ne_of_toNat (by simp; omega))
    fun v _ => pteAddr_ne hp v (.inl (by omega))

/-- Every PCB keeps its words. -/
theorem TableOnly.phys_pcb {p q k : Word} {vs : List Page} {m m' : Mem} (h : TableOnly p vs m m')
    (hp : p.toNat < 64) (hq : q.toNat < 64) (hk : k.toNat < 3) :
    Mem.phys m' (pcbAddr q k) = Mem.phys m (pcbAddr q k) := by
  have hb := pcbAddr_bounds hq hk
  exact h _ (by omega) (pcbAddr_ne hq hk (by decide)).symm (pcbAddr_ne hq hk (by decide)).symm
    fun v _ => pteAddr_ne hp v (.inl hb.2)

/-- An entry of another table, or of a page not listed, keeps its value. -/
theorem TableOnly.entry {p q : Word} {u : Page} {vs : List Page} {m m' : Mem} (h : TableOnly p vs m m')
    (hp : p.toNat < 64) (hq : q.toNat < 64) (hu : p = q → u ∉ vs) : Mem.entry m' q u = Mem.entry m q u := by
  have hb := pteAddr_bounds hq u
  refine h _ hb.2 (pteAddr_ne hq u (by decide)).symm (pteAddr_ne hq u (by decide)).symm fun v hv e => ?_
  obtain ⟨hqp, rfl⟩ := pteAddr_ptbrOf_inj hq hp e
  exact hu hqp.symm hv

theorem allocate_tableOnly {m m' : Mem} {p : Word} {v : Page} {vs : List Page} {r w : Bool} (hv : v ∈ vs)
    (e : Mem.allocate m (ptbrOf p) v r w = .ok m') : TableOnly p vs m m' := by
  intro a _ h3 h4 hne
  rcases allocate_cases m (ptbrOf p) v r w with ⟨h, _⟩ | ⟨h, _⟩ | ⟨f, h, _⟩ <;> rw [h] at e <;> cases e
  rw [Mem.phys_setPhys, if_neg (hne v hv).symm, phys_markUsed m f a h3 h4]

theorem freeQuiet_tableOnly {p : Word} {v : Page} {vs : List Page} (m : Mem) (hv : v ∈ vs) :
    TableOnly p vs m (Mem.freeQuiet m v (ptbrOf p)) := by
  intro a _ h3 h4 hne
  rcases freeQuiet_cases m v (ptbrOf p) with ⟨h, _⟩ | ⟨h, _⟩ <;> rw [h]
  rw [Mem.phys_setPhys, if_neg (hne v hv).symm, phys_markFree m _ a h3 h4]

theorem freePages_tableOnly {p : Word} {vs us : List Page} (hs : us ⊆ vs) :
    ∀ m : Mem, TableOnly p vs m (Mem.freePages m (ptbrOf p) us) := by
  induction us with
  | nil => exact fun m => .refl p vs m
  | cons u us ih =>
    rw [List.cons_subset] at hs
    exact fun m => (freeQuiet_tableOnly m hs.1).trans (ih hs.2 _)

end Sys2Proof.Machine
end

section
/-! The invariants of the OS state (10 R48) in two parts that depend on memory alone: the bitmap against all 64
page tables, and the process slots. Allocate, Free and writes elsewhere keep the first. -/

namespace Sys2Proof.Machine

/-! ## The bitmap and the 64 page tables -/

/-- 10 R48 (a) to (d) over all 64 tables, those of pids not yet created among them: Create allocates in such a table
before it counts the pid, so this form holds between its steps and `State.OsInv` does not. -/
structure TablesInv (m : Mem) : Prop where
  mappedUsed : ∀ (p : Word) (v : Page), p.toNat < 64 → pteValid (Mem.entry m p v) = true →
    3 ≤ (ptePfn (Mem.entry m p v)).toNat ∧ Mem.isFree m (ptePfn (Mem.entry m p v)) = false
  usedMapped : ∀ f : Page, 3 ≤ f.toNat → Mem.isFree m f = false →
    ∃ (p : Word) (v : Page), p.toNat < 64 ∧ pteValid (Mem.entry m p v) = true ∧ ptePfn (Mem.entry m p v) = f
  reservedUsed : ∀ f : Page, f.toNat < 3 → Mem.isFree m f = false
  unshared : ∀ (p q : Word) (v u : Page), p.toNat < 64 → q.toNat < 64 → pteValid (Mem.entry m p v) = true →
    pteValid (Mem.entry m q u) = true → ptePfn (Mem.entry m p v) = ptePfn (Mem.entry m q u) → p = q ∧ v = u
  reservedUnmapped : ∀ (p : Word) (v : Page), p.toNat < 64 → v.toNat < 3 → pteValid (Mem.entry m p v) = false

theorem TablesInv.congr {m m' : Mem} (h : TablesInv m) (hf : ∀ f, Mem.isFree m' f = Mem.isFree m f)
    (he : ∀ (p : Word) (v : Page), p.toNat < 64 → Mem.entry m' p v = Mem.entry m p v) : TablesInv m' where
  mappedUsed p v hp := by rw [he p v hp, hf]; exact h.mappedUsed p v hp
  usedMapped f h3 hused := by
    rw [hf] at hused
    obtain ⟨p, v, hp, hm⟩ := h.usedMapped f h3 hused
    exact ⟨p, v, hp, by rwa [he p v hp]⟩
  reservedUsed f h3 := by rw [hf]; exact h.reservedUsed f h3
  unshared p q v u hp hq := by rw [he p v hp, he q u hq]; exact h.unshared p q v u hp hq
  reservedUnmapped p v hp := by rw [he p v hp]; exact h.reservedUnmapped p v hp

/-- A write outside the bitmap and the page tables keeps the tables. -/
theorem TablesInv.setPhys_other {m : Mem} (h : TablesInv m) {a : Word} (w : Word) (h3 : a ≠ 3) (h4 : a ≠ 4)
    (ha : a.toNat < 0x1000 ∨ 0x1800 ≤ a.toNat) : TablesInv (Mem.setPhys m a w) :=
  h.congr (fun f => isFree_setPhys m a w f h3 h4) fun _ v hp => entry_setPhys_other hp m v w ha

/-- The write of a word of a PCB keeps the tables. -/
theorem TablesInv.setPhys_pcb {m : Mem} (h : TablesInv m) {p k : Word} (w : Word) (hp : p.toNat < 64)
    (hk : k.toNat < 3) : TablesInv (Mem.setPhys m (pcbAddr p k) w) :=
  h.setPhys_other w (pcbAddr_ne hp hk (by decide)).symm (pcbAddr_ne hp hk (by decide)).symm
    (.inl (pcbAddr_bounds hp hk).2)

/-- Memories that agree below frame 3 agree on the tables. -/
theorem TablesInv.of_low {m m' : Mem} (h : TablesInv m)
    (hl : ∀ a : Word, a.toNat < 0x1800 → Mem.phys m' a = Mem.phys m a) : TablesInv m' :=
  h.congr (fun f => by rw [isFree_eq, isFree_eq, hl _ (by have := bitmapAddrOf_lt f; omega)])
    fun _ v hp => hl _ (pteAddr_bounds hp v).2

/-- A frame that is free is allocatable: the three reserved ones never are (45 R208). -/
theorem TablesInv.three_le_of_isFree {m : Mem} (h : TablesInv m) {f : Page} (hf : Mem.isFree m f = true) :
    3 ≤ f.toNat := by
  by_contra hlt
  rw [h.reservedUsed f (by omega)] at hf
  cases hf

/-- A mapped page does not name a free frame. -/
theorem TablesInv.pfn_ne_of_isFree {m : Mem} (h : TablesInv m) {f : Page} (hf : Mem.isFree m f = true)
    {p : Word} {v : Page} (hp : p.toNat < 64) (hv : pteValid (Mem.entry m p v) = true) :
    f ≠ ptePfn (Mem.entry m p v) := by
  rintro rfl
  rw [(h.mappedUsed p v hp hv).2] at hf
  cases hf

/-- Allocate of a page that is not reserved keeps the tables (45 R202). -/
theorem TablesInv.allocate {m m' : Mem} (h : TablesInv m) {p : Word} {v : Page} {r w : Bool} (hp : p.toNat < 64)
    (h3 : 3 ≤ v.toNat) (e : Mem.allocate m (ptbrOf p) v r w = .ok m') : TablesInv m' := by
  obtain ⟨f, hv, hf, hfree, hentry⟩ := allocate_ok hp e
  have hnew : Mem.entry m' p v = makePte f w r := by rw [hentry p v hp, if_pos ⟨rfl, rfl⟩]
  have hold : ∀ (q : Word) (u : Page), q.toNat < 64 → ¬ (p = q ∧ v = u) →
      Mem.entry m' q u = Mem.entry m q u := fun q u hq hne => by rw [hentry q u hq, if_neg hne]
  refine ⟨fun q u hq hu => ?_, fun g hg hused => ?_, fun g hg => ?_, fun q q' u u' hq hq' hu hu' hpfn => ?_,
    fun q u hq hu => ?_⟩
  · by_cases hqu : p = q ∧ v = u
    · obtain ⟨rfl, rfl⟩ := hqu
      rw [hnew, makePte_pfn, hfree]
      exact ⟨h.three_le_of_isFree hf, by simp⟩
    · rw [hold q u hq hqu] at hu ⊢
      obtain ⟨hge, hnf⟩ := h.mappedUsed q u hq hu
      exact ⟨hge, by rw [hfree, hnf, Bool.false_and]⟩
  · by_cases hgf : f = g
    · exact ⟨p, v, hp, by rw [hnew, makePte_valid], by rw [hnew, makePte_pfn, hgf]⟩
    · rw [hfree, decide_eq_true hgf, Bool.and_true] at hused
      obtain ⟨q, u, hq, hu, hpfn⟩ := h.usedMapped g hg hused
      have hqu : ¬ (p = q ∧ v = u) := by rintro ⟨rfl, rfl⟩; rw [hv] at hu; cases hu
      exact ⟨q, u, hq, by rwa [hold q u hq hqu], by rwa [hold q u hq hqu]⟩
  · rw [hfree, h.reservedUsed g hg, Bool.false_and]
  · by_cases hqu : p = q ∧ v = u <;> by_cases hqu' : p = q' ∧ v = u'
    · exact ⟨hqu.1.symm.trans hqu'.1, hqu.2.symm.trans hqu'.2⟩
    · obtain ⟨rfl, rfl⟩ := hqu
      rw [hold q' u' hq' hqu'] at hu' hpfn
      rw [hnew, makePte_pfn] at hpfn
      exact absurd hpfn (h.pfn_ne_of_isFree hf hq' hu')
    · obtain ⟨rfl, rfl⟩ := hqu'
      rw [hold q u hq hqu] at hu hpfn
      rw [hnew, makePte_pfn] at hpfn
      exact absurd hpfn.symm (h.pfn_ne_of_isFree hf hq hu)
    · rw [hold q u hq hqu] at hu hpfn
      rw [hold q' u' hq' hqu'] at hu' hpfn
      exact h.unshared q q' u u' hq hq' hu hu' hpfn
  · have hqu : ¬ (p = q ∧ v = u) := by rintro ⟨rfl, rfl⟩; omega
    rw [hold q u hq hqu]
    exact h.reservedUnmapped q u hq hu

/-- A quiet Free keeps the tables (45 R203). -/
theorem TablesInv.freeQuiet {m : Mem} (h : TablesInv m) {p : Word} (hp : p.toNat < 64) (v : Page) :
    TablesInv (Mem.freeQuiet m v (ptbrOf p)) := by
  rcases freeQuiet_effect hp m v with ⟨e, _⟩ | ⟨hv, hfree, hentry⟩
  · rwa [e]
  have hne : ∀ {q : Word} {u : Page}, q.toNat < 64 →
      pteValid (Mem.entry (Mem.freeQuiet m v (ptbrOf p)) q u) = true → ¬ (p = q ∧ v = u) := by
    rintro q u - hu ⟨rfl, rfl⟩
    rw [freeQuiet_unmaps hp m v] at hu
    cases hu
  have hold : ∀ (q : Word) (u : Page), q.toNat < 64 → ¬ (p = q ∧ v = u) →
      Mem.entry (Mem.freeQuiet m v (ptbrOf p)) q u = Mem.entry m q u :=
    fun q u hq hqu => by rw [hentry q u hq, if_neg hqu]
  refine ⟨fun q u hq hu => ?_, fun g hg hused => ?_, fun g hg => ?_, fun q q' u u' hq hq' hu hu' hpfn => ?_,
    fun q u hq hu => freeQuiet_keeps_unmapped hp hq v (h.reservedUnmapped q u hq hu)⟩
  · have hqu := hne hq hu
    rw [hold q u hq hqu] at hu ⊢
    obtain ⟨hge, hnf⟩ := h.mappedUsed q u hq hu
    refine ⟨hge, ?_⟩
    rw [hfree, hnf, Bool.false_or, decide_eq_false_iff_not]
    exact fun hpfn => hqu (h.unshared p q v u hp hq hv hu hpfn)
  · rw [hfree, Bool.or_eq_false_iff, decide_eq_false_iff_not] at hused
    obtain ⟨q, u, hq, hu, hpfn⟩ := h.usedMapped g hg hused.1
    have hqu : ¬ (p = q ∧ v = u) := by rintro ⟨rfl, rfl⟩; exact hused.2 hpfn
    exact ⟨q, u, hq, by rwa [hold q u hq hqu], by rwa [hold q u hq hqu]⟩
  · rw [hfree, h.reservedUsed g hg, Bool.false_or, decide_eq_false_iff_not]
    rintro rfl
    have := (h.mappedUsed p v hp hv).1
    omega
  · have hqu := hne hq hu
    have hqu' := hne hq' hu'
    rw [hold q u hq hqu] at hu hpfn
    rw [hold q' u' hq' hqu'] at hu' hpfn
    exact h.unshared q q' u u' hq hq' hu hu' hpfn

theorem TablesInv.freePages {p : Word} (hp : p.toNat < 64) (vs : List Page) :
    ∀ {m : Mem}, TablesInv m → TablesInv (Mem.freePages m (ptbrOf p) vs) := by
  induction vs with
  | nil => exact fun h => h
  | cons v vs ih => exact fun h => ih (h.freeQuiet hp v)

/-! ## The process slots -/

/-- 10 R48 (e) with R41, R45 and 46 R228: how many slots there are, what their PCBs hold, and that only the tables
of live processes map pages. -/
structure SlotsInv (m : Mem) : Prop where
  count : (Mem.procCount m).toNat ≤ 64
  mappedLive : ∀ (p : Word) (v : Page), p.toNat < 64 → pteValid (Mem.entry m p v) = true →
    p.toNat < (Mem.procCount m).toNat ∧ Mem.pcbPid m p ≠ noPid
  pidWords : ∀ p : Word, p.toNat < (Mem.procCount m).toNat → Mem.pcbPid m p = p ∨ Mem.pcbPid m p = noPid
  savedPtbrs : ∀ p : Word, p.toNat < (Mem.procCount m).toNat → Mem.pcbPtbr m p = ptbrOf p

/-- The pid words and saved PTBRs of the two memories agree. -/
structure SamePcbs (m m' : Mem) : Prop where
  pid : ∀ p : Word, p.toNat < 64 → Mem.pcbPid m' p = Mem.pcbPid m p
  ptbr : ∀ p : Word, p.toNat < 64 → Mem.pcbPtbr m' p = Mem.pcbPtbr m p

theorem TableOnly.samePcbs {p : Word} {vs : List Page} {m m' : Mem} (h : TableOnly p vs m m')
    (hp : p.toNat < 64) : SamePcbs m m' :=
  ⟨fun _ hq => h.phys_pcb hp hq (by decide), fun _ hq => h.phys_pcb hp hq (by decide)⟩

/-- A write outside the PCBs keeps them. -/
theorem samePcbs_setPhys (m : Mem) {a : Word} (w : Word) (ha : a.toNat < 5 ∨ 0x1000 ≤ a.toNat) :
    SamePcbs m (Mem.setPhys m a w) :=
  ⟨fun p hp => by rw [Mem.pcbPid, Mem.phys_setPhys, if_neg (pcbAddr_ne hp (by decide) ha)]; rfl,
   fun p hp => by rw [Mem.pcbPtbr, Mem.phys_setPhys, if_neg (pcbAddr_ne hp (by decide) ha)]; rfl⟩

/-- The slots stay in order under a change that keeps `PROC_COUNT` and the PCBs and maps pages of live processes
only. -/
theorem SlotsInv.congr {m m' : Mem} (h : SlotsInv m) (hc : Mem.procCount m' = Mem.procCount m)
    (hs : SamePcbs m m')
    (hm : ∀ (p : Word) (v : Page), p.toNat < 64 → pteValid (Mem.entry m' p v) = true →
      p.toNat < (Mem.procCount m).toNat ∧ Mem.pcbPid m p ≠ noPid) : SlotsInv m' where
  count := by rw [hc]; exact h.count
  mappedLive p v hp hv := by rw [hc, hs.pid p hp]; exact hm p v hp hv
  pidWords p hp := by
    rw [hc] at hp
    rw [hs.pid p (by have := h.count; omega)]
    exact h.pidWords p hp
  savedPtbrs p hp := by
    rw [hc] at hp
    rw [hs.ptbr p (by have := h.count; omega)]
    exact h.savedPtbrs p hp

/-- Changes to the bitmap and to the table of a live process keep the slots. -/
theorem SlotsInv.tableOnly {m m' : Mem} {p : Word} {vs : List Page} (h : SlotsInv m)
    (hp : p.toNat < (Mem.procCount m).toNat) (hlive : Mem.pcbPid m p ≠ noPid) (ht : TableOnly p vs m m') :
    SlotsInv m' := by
  have hp' : p.toNat < 64 := by have := h.count; omega
  refine h.congr (ht.phys_lt_three hp' (by decide)) (ht.samePcbs hp') fun q u hq hu => ?_
  by_cases hpq : p = q
  · subst hpq; exact ⟨hp, hlive⟩
  · rw [ht.entry hp' hq fun e => absurd e hpq] at hu
    exact h.mappedLive q u hq hu

/-- Writes outside the tables and the PCBs, `PROC_COUNT` excepted, keep the slots. -/
theorem SlotsInv.setPhys_other {m : Mem} (h : SlotsInv m) {a : Word} (w : Word) (h1 : a ≠ 1)
    (ha : a.toNat < 5 ∨ 0x1800 ≤ a.toNat) : SlotsInv (Mem.setPhys m a w) := by
  refine h.congr ?_ (samePcbs_setPhys m w (by omega)) fun p v hp hv => ?_
  · rw [Mem.procCount, config_procCountAddr, Mem.phys_setPhys, if_neg h1]; rfl
  · rw [entry_setPhys_other hp m v w (by omega)] at hv
    exact h.mappedLive p v hp hv

/-- A slot not marked terminated holds its own pid (10 R45). -/
theorem SlotsInv.pcbPid_eq {m : Mem} (h : SlotsInv m) {p : Word} (hp : p.toNat < (Mem.procCount m).toNat)
    (hlive : Mem.pcbPid m p ≠ noPid) : Mem.pcbPid m p = p :=
  (h.pidWords p hp).resolve_right hlive

/-! ## The current process -/

/-- The current pid is live and `ptbr` is its table (10 R29): `State.CurrentIsLive` over a memory. -/
structure CurrentLive (m : Mem) (ptbr : Word) : Prop where
  lt_count : (Mem.curPid m).toNat < (Mem.procCount m).toNat
  pid : Mem.pcbPid m (Mem.curPid m) = Mem.curPid m
  ptbr_eq : ptbr = ptbrOf (Mem.curPid m)

theorem CurrentLive.lt {m : Mem} {ptbr : Word} (h : CurrentLive m ptbr) (hs : SlotsInv m) :
    (Mem.curPid m).toNat < 64 :=
  lt_of_lt_of_le h.lt_count hs.count

theorem ne_noPid_of_lt {p : Word} (hp : p.toNat < 64) : p ≠ noPid :=
  word_ne_of_toNat (by simp; omega)

theorem CurrentLive.ne_noPid {m : Mem} {ptbr : Word} (h : CurrentLive m ptbr) (hs : SlotsInv m) :
    Mem.pcbPid m (Mem.curPid m) ≠ noPid := by
  rw [h.pid]
  exact ne_noPid_of_lt (h.lt hs)

/-- The current process stays live under a change that keeps `CUR_PID` and the PCBs and does not lower
`PROC_COUNT`. -/
theorem CurrentLive.congr {m m' : Mem} {ptbr : Word} (h : CurrentLive m ptbr)
    (hcur : Mem.curPid m' = Mem.curPid m) (hcount : (Mem.procCount m).toNat ≤ (Mem.procCount m').toNat)
    (hpid : Mem.pcbPid m' (Mem.curPid m) = Mem.pcbPid m (Mem.curPid m)) : CurrentLive m' ptbr where
  lt_count := by rw [hcur]; exact lt_of_lt_of_le h.lt_count hcount
  pid := by rw [hcur, hpid, h.pid]
  ptbr_eq := by rw [hcur]; exact h.ptbr_eq

/-- After a Load of a live pid the current process is live (46 R226, R228). -/
theorem currentLive_load {m : Mem} (h : SlotsInv m) {p : Word} (hp : p.toNat < (Mem.procCount m).toNat)
    (hlive : Mem.pcbPid m p ≠ noPid) :
    CurrentLive (Mem.setPhys m config.curPidAddr p) (Mem.pcbPtbr m p) := by
  have hcur : Mem.curPid (Mem.setPhys m config.curPidAddr p) = p := by simp [Mem.curPid]
  have hcount : Mem.procCount (Mem.setPhys m config.curPidAddr p) = Mem.procCount m := by simp [Mem.procCount]
  refine ⟨by rwa [hcur, hcount], ?_, by rw [hcur, h.savedPtbrs p hp]⟩
  rw [hcur, (samePcbs_setPhys m p (by decide)).pid p (lt_of_lt_of_le hp h.count)]
  exact h.pcbPid_eq hp hlive

/-! ## The invariants of the OS state in these terms -/

theorem frameFree_iff (s : State) (f : Page) : FrameFree s f ↔ Mem.isFree s.mem f = true := by
  rw [isFree_eq]
  rfl

theorem not_frameFree_iff (s : State) (f : Page) : ¬ FrameFree s f ↔ Mem.isFree s.mem f = false := by
  rw [frameFree_iff, Bool.not_eq_true]

theorem maps_iff (s : State) (p : Word) (v : Page) : s.Maps p v ↔ pteValid (Mem.entry s.mem p v) = true :=
  Iff.rfl

theorem pidWord_eq (s : State) (p : Word) : s.pidWord p = Mem.pcbPid s.mem p := by
  simp [State.pidWord, Mem.pcbPid, pcbAddr, State.phys]

theorem currentIsLive_iff (s : State) : s.CurrentIsLive ↔ CurrentLive s.mem s.ptbr := by
  rw [State.CurrentIsLive, pidWord_eq]
  exact ⟨fun ⟨h1, h2, h3⟩ => ⟨h1, h2, h3⟩, fun ⟨h1, h2, h3⟩ => ⟨h1, h2, h3⟩⟩

theorem State.OsInv.tables {s : State} (h : s.OsInv) : TablesInv s.mem := by
  have below {p : Word} {v : Page} (hp : p.toNat < 64) (hv : s.Maps p v) : p.toNat < s.count := by
    by_contra hge
    exact h.beyondUnmapped p v (by omega) hp hv
  refine ⟨fun p v hp hv => ?_, fun f h3 hf => ?_, fun f h3 => (not_frameFree_iff s f).1 (h.reservedUsed f h3),
    fun p q v u hp hq hv hu => h.unshared p q v u (below hp hv) (below hq hu) hv hu, fun p v hp h3 => ?_⟩
  · have := h.mappedUsed p v (below hp hv) hv
    rwa [not_frameFree_iff] at this
  · obtain ⟨p, v, hp, hm⟩ := h.usedMapped f h3 ((not_frameFree_iff s f).2 hf)
    exact ⟨p, v, lt_of_lt_of_le hp h.count, hm⟩
  · rw [← Bool.not_eq_true]
    exact fun hv => h.reservedUnmapped p v (below hp hv) h3 hv

theorem State.OsInv.slots {s : State} (h : s.OsInv) : SlotsInv s.mem := by
  refine ⟨h.count, fun p v hp hv => ?_, fun p hp => ?_, h.savedPtbrs⟩
  · have hlt : p.toNat < s.count := by
      by_contra hge
      exact h.beyondUnmapped p v (by omega) hp hv
    refine ⟨hlt, fun hdead => h.deadUnmapped p v hlt ?_ hv⟩
    rw [pidWord_eq, hdead]
  · rw [← pidWord_eq]
    exact h.pidWords p hp

theorem State.OsInv.currentLive {s : State} (h : s.OsInv) (hr : s.run = true) : CurrentLive s.mem s.ptbr :=
  (currentIsLive_iff s).1 (h.running hr)

/-- The invariants of the OS state from their parts. -/
theorem osInv_of_parts {s : State} (ht : TablesInv s.mem) (hs : SlotsInv s.mem)
    (hr : s.run = true → CurrentLive s.mem s.ptbr) : s.OsInv where
  count := hs.count
  mappedUsed p v hp hv := by
    rw [not_frameFree_iff]
    exact ht.mappedUsed p v (lt_of_lt_of_le hp hs.count) hv
  usedMapped f h3 hf := by
    obtain ⟨p, v, hp, hv, hpfn⟩ := ht.usedMapped f h3 ((not_frameFree_iff s f).1 hf)
    exact ⟨p, v, (hs.mappedLive p v hp hv).1, hv, hpfn⟩
  reservedUsed f h3 := (not_frameFree_iff s f).2 (ht.reservedUsed f h3)
  unshared p q v u hp hq := ht.unshared p q v u (lt_of_lt_of_le hp hs.count) (lt_of_lt_of_le hq hs.count)
  reservedUnmapped p v hp h3 := by
    rw [maps_iff, Bool.not_eq_true]
    exact ht.reservedUnmapped p v (lt_of_lt_of_le hp hs.count) h3
  deadUnmapped p v hp hdead hv := by
    rw [pidWord_eq] at hdead
    exact (hs.mappedLive p v (lt_of_lt_of_le hp hs.count) hv).2 hdead
  beyondUnmapped p v hge hp hv := absurd (hs.mappedLive p v hp hv).1 (not_lt.2 hge)
  pidWords p hp := by rw [pidWord_eq]; exact hs.pidWords p hp
  savedPtbrs := hs.savedPtbrs
  running hr' := (currentIsLive_iff s).2 (hr hr')

end Sys2Proof.Machine
end

section
/-! Every step keeps the invariants of the OS state (10 R48). -/

namespace Sys2Proof.Machine

/-! ## Changes that do not reach the OS words -/

/-- A change that keeps the words below frame 3 and PTBR, and does not set RUN, keeps the invariants. -/
theorem State.OsInv.of_low {s t : State} (h : s.OsInv)
    (hl : ∀ a : Word, a.toNat < 0x1800 → Mem.phys t.mem a = Mem.phys s.mem a) (hp : t.ptbr = s.ptbr)
    (hr : t.run = true → s.run = true) : t.OsInv := by
  have hlow : ∀ {a : Word}, a.toNat < 0x1000 → Mem.phys t.mem a = Mem.phys s.mem a := fun ha => hl _ (by omega)
  have hpcb : SamePcbs s.mem t.mem :=
    ⟨fun p hp => hlow (pcbAddr_bounds hp (by decide)).2, fun p hp => hlow (pcbAddr_bounds hp (by decide)).2⟩
  have hcount : Mem.procCount t.mem = Mem.procCount s.mem := hlow (by decide)
  refine osInv_of_parts (h.tables.of_low hl) (h.slots.congr hcount hpcb fun p v hp' hv => ?_) fun hrun => ?_
  · rw [show Mem.entry t.mem p v = Mem.entry s.mem p v from hl _ (pteAddr_bounds hp' v).2] at hv
    exact h.slots.mappedLive p v hp' hv
  · have hcur := h.currentLive (hr hrun)
    rw [hp]
    exact hcur.congr (hlow (by decide)) (le_of_eq (by rw [hcount])) (hpcb.pid _ (hcur.lt h.slots))

/-- An instruction that changes registers only keeps the invariants. -/
theorem State.OsInv.of_registersOnly {s t : State} (h : s.OsInv) (hst : RegistersOnly s t) : t.OsInv :=
  h.of_low (fun _ _ => by rw [hst.mem]) hst.ptbr fun hr => by
    rcases hst.run with e | e <;> rw [e] at hr
    · exact hr
    · cases hr

/-- What a running process reaches through the translator lies above the words of the OS (20 R85). -/
theorem State.OsInv.translate_ge {s : State} (h : s.OsInv) (hr : s.run = true) {k : Access} {va pa : Word}
    (ht : s.translate k va = .ok pa) : 0x1800 ≤ pa.toNat := by
  obtain ⟨_, hv, _, rfl⟩ := (s.translate_ok_iff k va pa).1 ht
  have hcur := h.currentLive hr
  rw [hcur.ptbr_eq] at hv ⊢
  exact physAddr_ge _ (h.tables.mappedUsed _ _ (hcur.lt h.slots) hv).1

/-- A store keeps the invariants. -/
theorem State.OsInv.store {s : State} (h : s.OsInv) (hr : s.run = true) {k : Access} {va pa : Word}
    (ht : s.translate k va = .ok pa) (v : Word) : (s.setPhys pa v).OsInv :=
  h.of_low (fun _ ha => phys_setPhys_low (h.translate_ge hr ht) ha) rfl id

/-- Changes to the bitmap and the running process's own table keep `CUR_PID` and leave the process live. -/
theorem CurrentLive.tableOnly {m m' : Mem} {ptbr : Word} {vs : List Page} (h : CurrentLive m ptbr)
    (hs : SlotsInv m) (ht : TableOnly (Mem.curPid m) vs m m') : CurrentLive m' ptbr :=
  have hp := h.lt hs
  h.congr (ht.phys_lt_three hp (by decide)) (le_of_eq (congrArg _ (ht.phys_lt_three hp (by decide)).symm))
    (ht.phys_pcb hp hp (by decide))

/-! ## BRK -/

/-- A successful Allocate of a page that is not reserved, in the running process's table, keeps the invariants. -/
theorem State.OsInv.allocate {s : State} (h : s.OsInv) (hr : s.run = true) {v : Page} {r w : Bool} {m : Mem}
    (h3 : 3 ≤ v.toNat) (e : Mem.allocate s.mem s.ptbr v r w = .ok m) : (s.setMem m).OsInv := by
  have hcur := h.currentLive hr
  rw [hcur.ptbr_eq] at e
  have ht := allocate_tableOnly (List.mem_singleton_self v) e
  exact osInv_of_parts (h.tables.allocate (hcur.lt h.slots) h3 e)
    (h.slots.tableOnly hcur.lt_count (hcur.ne_noPid h.slots) ht) fun _ => hcur.tableOnly h.slots ht

/-- A successful Free in the running process's table keeps the invariants. -/
theorem State.OsInv.free {s : State} (h : s.OsInv) (hr : s.run = true) {v : Page} {m : Mem}
    (e : Mem.free s.mem v s.ptbr = .ok m) : (s.setMem m).OsInv := by
  have hcur := h.currentLive hr
  obtain rfl := freeQuiet_eq_of_free e
  have ht := freeQuiet_tableOnly (p := Mem.curPid s.mem) s.mem (List.mem_singleton_self v)
  rw [hcur.ptbr_eq]
  refine osInv_of_parts (h.tables.freeQuiet (hcur.lt h.slots) v)
    (h.slots.tableOnly hcur.lt_count (hcur.ne_noPid h.slots) ht) fun _ => ?_
  exact hcur.tableOnly h.slots ht

/-- BRK keeps the invariants (44 R191). -/
theorem State.OsInv.heapBreak {s : State} (h : s.OsInv) (hr : s.run = true) : s.heapBreak.OsInv := by
  rcases heapBreak_cases s with ⟨_, e⟩ | ⟨m, hm, h3, _, e⟩ | ⟨m, hm, _, e⟩ <;> rw [e]
  · exact h.of_low (fun _ _ => rfl) rfl id
  · rw [← Bool.not_eq_true, isReservedPage_iff, not_lt] at h3
    exact h.allocate hr h3 hm
  · exact h.free hr hm

/-! ## Load and Save -/

/-- A Load of a live pid leaves the invariants, with that pid the current one (46 R226). -/
theorem osInv_load {s : State} (ht : TablesInv s.mem) (hs : SlotsInv s.mem) {p : Word}
    (hp : p.toNat < (Mem.procCount s.mem).toNat) (hlive : Mem.pcbPid s.mem p ≠ noPid) : (s.load p).OsInv :=
  osInv_of_parts (ht.setPhys_other p (by decide) (by decide) (.inl (by decide)))
    (hs.setPhys_other p (by decide) (.inl (by decide))) fun _ => currentLive_load hs hp hlive

/-- The save of the running process writes the PTBR its PCB already holds: no pid word and no saved PTBR changes. -/
theorem samePcbs_save {s : State} (hs : SlotsInv s.mem) (hcur : CurrentLive s.mem s.ptbr) :
    SamePcbs s.mem (s.save (Mem.curPid s.mem)).mem := by
  have hlt := hcur.lt hs
  have hdiff : ∀ {p k j : Word}, p.toNat < 64 → k.toNat < 3 → j.toNat < 3 → k ≠ j →
      pcbAddr (Mem.curPid s.mem) k ≠ pcbAddr p j :=
    fun hp hk hj hne e => hne (pcbAddr_inj hlt hp hk hj e).2
  refine ⟨fun p hp => ?_, fun p hp => ?_⟩
  · rw [Mem.pcbPid, State.save_mem, Mem.phys_setPhys, if_neg (hdiff hp (by decide) (by decide) (by decide)),
      Mem.phys_setPhys, if_neg (hdiff hp (by decide) (by decide) (by decide))]
    rfl
  · rw [Mem.pcbPtbr, State.save_mem, Mem.phys_setPhys]
    split_ifs with e
    · obtain ⟨rfl, -⟩ := pcbAddr_inj hlt hp (by decide) (by decide) e
      rw [hcur.ptbr_eq]
      exact (hs.savedPtbrs _ hcur.lt_count).symm
    · rw [Mem.phys_setPhys, if_neg (hdiff hp (by decide) (by decide) (by decide))]
      rfl

/-- Words outside the PCBs keep their values under the save of a pid below 64. -/
theorem phys_save {s : State} {cur : Word} (hc : cur.toNat < 64) {a : Word} (ha : a.toNat < 5 ∨ 0x1000 ≤ a.toNat) :
    Mem.phys (s.save cur).mem a = Mem.phys s.mem a := by
  rw [State.save_mem, Mem.phys_setPhys, if_neg (pcbAddr_ne hc (by decide) ha).symm, Mem.phys_setPhys,
    if_neg (pcbAddr_ne hc (by decide) ha).symm]

/-- The save of the running process keeps the invariants (46 R227). -/
theorem State.OsInv.save {s : State} (h : s.OsInv) (hr : s.run = true) : (s.save (Mem.curPid s.mem)).OsInv := by
  have hcur := h.currentLive hr
  have hlt := hcur.lt h.slots
  have hpcb := samePcbs_save h.slots hcur
  have hcount : Mem.procCount (s.save (Mem.curPid s.mem)).mem = Mem.procCount s.mem :=
    phys_save hlt (.inl (by decide))
  refine osInv_of_parts ((h.tables.setPhys_pcb _ hlt (by decide)).setPhys_pcb _ hlt (by decide))
    (h.slots.congr hcount hpcb fun p v hp hv => ?_) fun _ => ?_
  · rw [show Mem.entry _ p v = Mem.entry s.mem p v from
      phys_save hlt (.inr (pteAddr_bounds hp v).1)] at hv
    exact h.slots.mappedLive p v hp hv
  · exact hcur.congr (phys_save hlt (.inl (by decide))) (le_of_eq (by rw [hcount])) (hpcb.pid _ hlt)

/-- Yield keeps the invariants (47 R242). -/
theorem State.OsInv.yield {s : State} (h : s.OsInv) (hr : s.run = true) : s.yield.OsInv := by
  have hsave := h.save hr
  rcases yield_cases s with e | ⟨next, hnext, _, e⟩ <;> rw [e]
  · exact hsave
  · obtain ⟨hlt, hlive⟩ := nextRunnable_live hnext
    exact osInv_load hsave.tables hsave.slots hlt hlive

/-! ## Halt -/

/-- The termination of the running process keeps the tables. -/
theorem tablesInv_terminate {s : State} (ht : TablesInv s.mem) (hs : SlotsInv s.mem)
    (hcur : CurrentLive s.mem s.ptbr) : TablesInv s.terminate.mem := by
  rw [State.terminate, hcur.ptbr_eq]
  exact (ht.freePages (hcur.lt hs) pages).setPhys_pcb _ (hcur.lt hs) (by decide)

/-- The termination of the running process keeps the slots: its pid word becomes 0xFFFF when its table maps nothing
any more. -/
theorem slotsInv_terminate {s : State} (hs : SlotsInv s.mem) (hcur : CurrentLive s.mem s.ptbr) :
    SlotsInv s.terminate.mem := by
  have hlt := hcur.lt hs
  rw [State.terminate, hcur.ptbr_eq, State.setMem_mem]
  generalize hcp : Mem.curPid s.mem = cur at *
  have htab := freePages_tableOnly (p := cur) (List.Subset.refl pages) s.mem
  have hslots := hs.tableOnly (hcp ▸ hcur.lt_count) (hcp ▸ hcur.ne_noPid hs) htab
  have hdead : ∀ v, pteValid (Mem.entry (Mem.freePages s.mem (ptbrOf cur) pages) cur v) = false :=
    fun v => freePages_unmaps hlt pages (mem_pages v) _
  generalize Mem.freePages s.mem (ptbrOf cur) pages = m at hslots hdead
  have hcount : Mem.procCount (Mem.setPhys m (pcbAddr cur 0) noPid) = Mem.procCount m := by
    rw [Mem.procCount, Mem.phys_setPhys, if_neg (pcbAddr_ne hlt (by decide) (.inl (by decide))).symm]; rfl
  have hpid : ∀ p : Word, p.toNat < 64 → Mem.pcbPid (Mem.setPhys m (pcbAddr cur 0) noPid) p =
      if cur = p then noPid else Mem.pcbPid m p := by
    intro p hp
    rw [Mem.pcbPid, Mem.phys_setPhys]
    by_cases e : cur = p
    · rw [if_pos e, if_pos (by rw [e])]
    · rw [if_neg e, if_neg fun e' => e (pcbAddr_inj hlt hp (by decide) (by decide) e').1]; rfl
  refine ⟨by rw [hcount]; exact hslots.count, fun p v hp hv => ?_, fun p hp => ?_, fun p hp => ?_⟩
  · rw [entry_setPhys_other hp m v noPid (.inl (pcbAddr_bounds hlt (by decide)).2)] at hv
    have hne : cur ≠ p := by rintro rfl; rw [hdead v] at hv; cases hv
    rw [hcount, hpid p hp, if_neg hne]
    exact hslots.mappedLive p v hp hv
  · rw [hcount] at hp
    rw [hpid p (lt_of_lt_of_le hp hslots.count)]
    split_ifs
    · exact .inr rfl
    · exact hslots.pidWords p hp
  · rw [hcount] at hp
    rw [← hslots.savedPtbrs p hp, Mem.pcbPtbr, Mem.phys_setPhys, if_neg fun e => ?_]; rfl
    exact absurd (pcbAddr_inj hlt (lt_of_lt_of_le hp hslots.count) (by decide) (by decide) e).2 (by decide)

/-- Halt keeps the invariants: it loads a live pid or stops the machine (47 R243). -/
theorem State.OsInv.halt {s : State} (h : s.OsInv) (hr : s.run = true) : s.halt.OsInv := by
  have hcur := h.currentLive hr
  have ht := tablesInv_terminate h.tables h.slots hcur
  have hs := slotsInv_terminate h.slots hcur
  rcases halt_cases s with ⟨_, e⟩ | ⟨next, hnext, e⟩ <;> rw [e]
  · exact osInv_of_parts ht hs fun hrun => by cases hrun
  · obtain ⟨hlt, hlive⟩ := nextRunnable_live hnext
    exact osInv_load ht hs hlt hlive

/-! ## The step -/

/-- Every instruction a running process executes keeps the invariants of the OS state. -/
theorem State.OsInv.exec {i : Instr} {s t : State} (h : s.OsInv) (hr : s.run = true)
    (e : Machine.exec i s = .next t) : t.OsInv := by
  rcases exec_cases e with hreg | ⟨_, _, _, v, hpa, rfl⟩ | ⟨_, _, rfl⟩ | ⟨_, _, rfl⟩ | ⟨_, rfl⟩
  · exact h.of_registersOnly hreg
  · exact h.store hr hpa v
  · exact h.yield hr
  · exact h.halt hr
  · exact h.heapBreak hr

/-- No instruction changes the host's phase. -/
theorem exec_phase {i : Instr} {s t : State} (e : exec i s = .next t) : t.phase = s.phase := by
  rcases exec_cases e with hreg | ⟨_, _, _, _, _, rfl⟩ | ⟨_, _, rfl⟩ | ⟨_, _, rfl⟩ | ⟨_, rfl⟩
  · exact hreg.phase
  · rfl
  · rcases yield_cases s with e | ⟨_, _, _, e⟩ <;> rw [e] <;> rfl
  · rcases halt_cases s with ⟨_, e⟩ | ⟨_, _, e⟩ <;> rw [e] <;> rfl
  · rcases heapBreak_cases s with ⟨_, e⟩ | ⟨_, _, _, _, e⟩ | ⟨_, _, _, e⟩ <;> rw [e] <;> rfl

theorem State.run_of_engineRuns {s : State} (h : s.engineRuns = true) : s.run = true := by
  rw [State.engineRuns, Bool.and_eq_true] at h
  exact h.1

/-- A step either leaves the state as it is or is that of a running machine and keeps the phase. -/
theorem step_phase {s t : State} (e : step s = .next t) : t = s ∨ s.run = true ∧ t.phase = s.phase := by
  rcases step_cases e with ⟨_, rfl⟩ | ⟨hrun, _, _, rfl⟩ | ⟨hrun, _, _, he⟩
  · exact .inl rfl
  · exact .inr ⟨State.run_of_engineRuns hrun, rfl⟩
  · exact .inr ⟨State.run_of_engineRuns hrun, (exec_phase he).trans s.advance_phase⟩

theorem State.OsInv.step {s t : State} (h : s.OsInv) (e : Machine.step s = .next t) : t.OsInv := by
  rcases step_cases e with ⟨_, rfl⟩ | ⟨_, f, _, rfl⟩ | ⟨hrun, w, _, he⟩
  · exact h
  · exact h.of_registersOnly (.raise s f)
  · exact (h.of_low (t := s.advance) (fun _ _ => rfl) rfl id).exec (State.run_of_engineRuns hrun) he

/-- A running machine has been started, and stays so: with the invariants of the OS state every step keeps those of
the boot protocol. -/
theorem State.MachineInv.step {s t : State} (h : s.MachineInv) (e : Machine.step s = .next t) : t.MachineInv := by
  rcases step_phase e with rfl | ⟨hrun, hphase⟩
  · exact h
  · have hstarted : t.phase = .started := hphase.trans (h.runs hrun)
    exact ⟨h.os.step e, fun _ => hstarted, fun hl => by rw [hstarted] at hl; cases hl⟩

/-- Settles O48: each operation of the OS keeps the tables, the slots and the current process in order, and every
other instruction leaves the words below frame 3 alone. -/
theorem stepKeepsOsInvariant : Obligations.StepKeepsOsInvariant :=
  fun _ _ e => ⟨fun h => h.step e, fun h => h.step e⟩

end Sys2Proof.Machine
end

section
/-! Create, Load, Start and Reset keep the invariants (46 R223 to R226; 70 R306 to R311). -/

namespace Sys2Proof.Machine

/-! ## Steps 2 to 4 of Create -/

/-- The four pages Create allocates, in the order in which the rollback frees them (46 R223). -/
abbrev segmentPages : List Page := [heapVpn + 1, heapVpn, codeVpn + 1, codeVpn]

/-- The memory an operation of Create leaves, whether it succeeds or fails. -/
def memAfter : Except (Failure × Mem) Mem → Mem
  | .ok m => m
  | .error (_, m) => m

/-- Loading an image into two mapped pages changes no word below frame 3 (46 R224). -/
theorem loadImageFrom_low {p : Word} (hp : p.toNat < 64) {v0 : Page} (img : List Word) :
    ∀ {m : Mem} {k : Nat}, TablesInv m → pteValid (Mem.entry m p v0) = true →
      pteValid (Mem.entry m p (v0 + 1)) = true → k + img.length ≤ 4096 →
      ∀ a : Word, a.toNat < 0x1800 → Mem.phys (Mem.loadImageFrom m (ptbrOf p) v0 k img) a = Mem.phys m a := by
  induction img with
  | nil => exact fun _ _ _ _ _ _ => rfl
  | cons w img ih =>
    intro m k ht h0 h1 hk a ha
    rw [List.length_cons] at hk
    have hpage : pteValid (Mem.entry m p (v0 + BitVec.ofNat 5 (k / pageWords))) = true := by
      have hlt : k / pageWords < 2 := Nat.div_lt_of_lt_mul (show k < 2048 * 2 by omega)
      interval_cases k / pageWords
      · simpa using h0
      · exact h1
    have hge := physAddr_ge (BitVec.ofNat 11 (k % pageWords)) (ht.mappedUsed p _ hp hpage).1
    have hlow {b : Word} : b.toNat < 0x1800 → _ := phys_setPhys_low (m := m) (w := w) hge
    have hentry : ∀ v, Mem.entry (Mem.setPhys m _ w) p v = Mem.entry m p v :=
      fun v => hlow (pteAddr_bounds hp v).2
    refine (ih (ht.of_low fun _ => hlow) ?_ ?_ (by omega) a ha).trans (hlow ha)
    · rwa [hentry]
    · rwa [hentry]

/-- Loading an image of at most 4096 words into two mapped pages keeps the tables. -/
theorem loadImage_low {p : Word} (hp : p.toNat < 64) {v0 : Page} {img : List Word} {m : Mem} (ht : TablesInv m)
    (hmap : pteValid (Mem.entry m p v0) = true ∧ pteValid (Mem.entry m p (v0 + 1)) = true)
    (hlen : img.length ≤ 4096) :
    ∀ a : Word, a.toNat < 0x1800 → Mem.phys (Mem.loadImage m img (ptbrOf p) v0) a = Mem.phys m a :=
  loadImageFrom_low hp img ht hmap.1 hmap.2 (by omega)

theorem allocate_maps {m m' : Mem} {p : Word} {v : Page} {r w : Bool} (hp : p.toNat < 64)
    (e : Mem.allocate m (ptbrOf p) v r w = .ok m') : pteValid (Mem.entry m' p v) = true := by
  obtain ⟨f, _, _, _, hentry⟩ := allocate_ok hp e
  rw [hentry p v hp, if_pos ⟨rfl, rfl⟩, makePte_valid]

/-- Allocate unmaps nothing. -/
theorem allocate_keeps_mapped {m m' : Mem} {p q : Word} {v u : Page} {r w : Bool} (hp : p.toNat < 64)
    (hq : q.toNat < 64) (e : Mem.allocate m (ptbrOf p) v r w = .ok m')
    (hu : pteValid (Mem.entry m q u) = true) : pteValid (Mem.entry m' q u) = true := by
  obtain ⟨f, _, _, _, hentry⟩ := allocate_ok hp e
  rw [hentry q u hq]
  split_ifs
  · exact makePte_valid _ _ _
  · exact hu

/-- What `m'` must satisfy for Create to go on with it, or to roll it back: the tables are in order, and outside the
bitmap and the segment pages of the new pid nothing below frame 3 has changed. -/
structure Building (n : Word) (m m' : Mem) : Prop where
  tables : TablesInv m'
  only : TableOnly n segmentPages m m'

theorem Building.allocate {n : Word} {m m1 m2 : Mem} (hn : n.toNat < 64) {v : Page} {r w : Bool}
    (hv : v ∈ segmentPages) (h : Building n m m1) (e : Mem.allocate m1 (ptbrOf n) v r w = .ok m2) :
    Building n m m2 :=
  have h3 : ∀ v ∈ segmentPages, 3 ≤ v.toNat := by decide
  ⟨h.tables.allocate hn (h3 v hv) e, h.only.trans (allocate_tableOnly hv e)⟩

theorem Building.loadImage {n : Word} {m m1 : Mem} (hn : n.toNat < 64) {v0 : Page} {img : List Word}
    (h : Building n m m1) (hlen : img.length ≤ 4096)
    (hmap : pteValid (Mem.entry m1 n v0) = true ∧ pteValid (Mem.entry m1 n (v0 + 1)) = true) :
    Building n m (Mem.loadImage m1 img (ptbrOf n) v0) :=
  have hlow := loadImage_low hn h.tables hmap hlen
  ⟨h.tables.of_low hlow, h.only.trans (.of_low hlow)⟩

/-- The two pages of a segment: allocated both, or a failure with the memory still in order. -/
theorem Building.allocateTwo {n : Word} {m m1 : Mem} (hn : n.toNat < 64) {v0 : Page} (w : Bool)
    (hv0 : v0 ∈ segmentPages) (hv1 : v0 + 1 ∈ segmentPages) (h : Building n m m1) :
    Building n m (memAfter (Mem.allocateTwo m1 (ptbrOf n) v0 w)) ∧
    ∀ m2, Mem.allocateTwo m1 (ptbrOf n) v0 w = .ok m2 →
      pteValid (Mem.entry m2 n v0) = true ∧ pteValid (Mem.entry m2 n (v0 + 1)) = true := by
  unfold Mem.allocateTwo
  cases e1 : Mem.allocate m1 (ptbrOf n) v0 true w with
  | error f => exact ⟨h, fun _ e => by cases e⟩
  | ok m2 =>
    have h1 := h.allocate hn hv0 e1
    dsimp only
    cases e2 : Mem.allocate m2 (ptbrOf n) (v0 + 1) true w with
    | error f => exact ⟨h1, fun _ e => by cases e⟩
    | ok m3 =>
      refine ⟨h1.allocate hn hv1 e2, fun m4 e => ?_⟩
      cases e
      exact ⟨allocate_keeps_mapped hn hn e2 (allocate_maps hn e1), allocate_maps hn e2⟩

/-- Steps 2 to 4 of Create leave the tables in order and change, below frame 3, the bitmap, the new PCB and the
segment pages of the new pid only, whether they succeed or fail (46 R223). -/
theorem buildProcess_building {m : Mem} {n : Word} {code heap : List Word} (hn : n.toNat < 64) (ht : TablesInv m)
    (hcode : code.length ≤ 4096) (hheap : heap.length ≤ 4096) :
    Building n (Mem.writePcb m n) (memAfter (Mem.buildProcess m n code heap)) := by
  have h0 : Building n (Mem.writePcb m n) (Mem.writePcb m n) :=
    ⟨((ht.setPhys_pcb _ hn (by decide)).setPhys_pcb _ hn (by decide)).setPhys_pcb _ hn (by decide), .refl _ _ _⟩
  obtain ⟨h1, hmap1⟩ := h0.allocateTwo hn (v0 := codeVpn) false (by decide) (by decide)
  unfold Mem.buildProcess
  cases e1 : Mem.allocateTwo (Mem.writePcb m n) (ptbrOf n) codeVpn false with
  | error f => rwa [e1] at h1
  | ok m1 =>
    rw [e1] at h1
    change Building n (Mem.writePcb m n) m1 at h1
    obtain ⟨h2, hmap2⟩ := (Building.loadImage hn h1 hcode (hmap1 m1 e1)).allocateTwo hn (v0 := heapVpn) true
      (by decide) (by decide)
    dsimp only
    cases e2 : Mem.allocateTwo (Mem.loadImage m1 code (ptbrOf n) codeVpn) (ptbrOf n) heapVpn true with
    | error f => rwa [e2] at h2
    | ok m2 =>
      rw [e2] at h2
      exact Building.loadImage hn h2 hheap (hmap2 m2 e2)

/-- Step 5 of Create, the rollback, keeps this too (46 R225). -/
theorem Building.rollback {n : Word} {m m1 : Mem} (hn : n.toNat < 64) (h : Building n m m1) :
    Building n m (Mem.rollback m1 n) :=
  ⟨h.tables.freePages hn segmentPages,
    h.only.trans (freePages_tableOnly (List.Subset.refl segmentPages) m1)⟩

/-! ## The PCB of the new pid -/

/-- Words outside the PCBs keep their values when a PCB is written. -/
theorem phys_writePcb {m : Mem} {n : Word} (hn : n.toNat < 64) {a : Word} (ha : a.toNat < 5 ∨ 0x1000 ≤ a.toNat) :
    Mem.phys (Mem.writePcb m n) a = Mem.phys m a := by
  unfold Mem.writePcb
  simp only [Mem.phys_setPhys]
  rw [if_neg (pcbAddr_ne hn (by decide) ha).symm, if_neg (pcbAddr_ne hn (by decide) ha).symm,
    if_neg (pcbAddr_ne hn (by decide) ha).symm]

/-- The PCB written is that of the new pid: its pid word and its PTBR; the others keep theirs. -/
theorem pcb_writePcb {m : Mem} {n p : Word} (hn : n.toNat < 64) (hp : p.toNat < 64) :
    Mem.pcbPid (Mem.writePcb m n) p = (if n = p then n else Mem.pcbPid m p) ∧
    Mem.pcbPtbr (Mem.writePcb m n) p = if n = p then ptbrOf n else Mem.pcbPtbr m p := by
  simp [Mem.writePcb, Mem.pcbPid, Mem.pcbPtbr, pcbAddr_eq_iff hn hp]

/-- `PROC_COUNT` after a new pid is counted. -/
theorem procCount_counted (m : Mem) {n : Word} (hn : n.toNat < 64) :
    (Mem.procCount (Mem.setPhys m config.procCountAddr (n + 1))).toNat = n.toNat + 1 := by
  rw [Mem.procCount, Mem.phys_setPhys, if_pos rfl, BitVec.toNat_add_of_lt] <;> simp; omega

section create
variable {m m' : Mem} {n : Word} (hn : n.toNat < 64) (hb : Building n (Mem.writePcb m n) m')
include hn hb

/-- The OS words before the bitmap stay while a process is built. -/
theorem Building.phys_lt_three {a : Word} (ha : a.toNat < 3) : Mem.phys m' a = Mem.phys m a :=
  (hb.only.phys_lt_three hn ha).trans (phys_writePcb hn (.inl (by omega)))

/-- The PCBs while a process is built: that of the new pid is written, the others stay. -/
theorem Building.pcb {p : Word} (hp : p.toNat < 64) :
    Mem.pcbPid m' p = (if n = p then n else Mem.pcbPid m p) ∧
    Mem.pcbPtbr m' p = if n = p then ptbrOf n else Mem.pcbPtbr m p := by
  rw [(hb.only.samePcbs hn).pid p hp, (hb.only.samePcbs hn).ptbr p hp]
  exact pcb_writePcb hn hp

/-- The entries that are not those of the segment pages of the new pid stay while it is built. -/
theorem Building.entry {p : Word} {v : Page} (hp : p.toNat < 64) (hv : n = p → v ∉ segmentPages) :
    Mem.entry m' p v = Mem.entry m p v :=
  (hb.only.entry hn hp hv).trans (phys_writePcb hn (.inr (pteAddr_bounds hp v).1))

/-- Counting the pid just built: it is live, and every other slot is as it was. -/
theorem Building.slots_of_counted (hs : SlotsInv m) (hcount : n = Mem.procCount m) :
    SlotsInv (Mem.setPhys m' config.procCountAddr (n + 1)) := by
  subst hcount
  have hc := procCount_counted m' hn
  have hpcb := samePcbs_setPhys m' (a := config.procCountAddr) (Mem.procCount m + 1) (.inl (by decide))
  have hself : Mem.procCount m ≠ noPid := ne_noPid_of_lt hn
  refine ⟨by omega, fun p v hp hv => ?_, fun p hp => ?_, fun p hp => ?_⟩
  · rw [entry_setPhys_other hp m' v _ (.inl (by decide))] at hv
    rw [hc, hpcb.pid p hp, (hb.pcb hn hp).1]
    by_cases e : Mem.procCount m = p
    · rw [if_pos e]
      exact ⟨by rw [← e]; omega, hself⟩
    · rw [hb.entry hn hp fun e' => absurd e' e] at hv
      obtain ⟨hlt, hlive⟩ := hs.mappedLive p v hp hv
      rw [if_neg e]
      exact ⟨by omega, hlive⟩
  · rw [hc] at hp
    rw [hpcb.pid p (by omega), (hb.pcb hn (by omega)).1]
    split_ifs with e
    · exact .inl e
    · exact hs.pidWords p (by have := mt BitVec.eq_of_toNat_eq e; omega)
  · rw [hc] at hp
    rw [hpcb.ptbr p (by omega), (hb.pcb hn (by omega)).2]
    split_ifs with e
    · rw [e]
    · exact hs.savedPtbrs p (by have := mt BitVec.eq_of_toNat_eq e; omega)

/-- A pid built and then unmapped again without being counted leaves the slots as they were. -/
theorem Building.slots_of_unmapped (hs : SlotsInv m) (hcount : n = Mem.procCount m)
    (hun : ∀ v ∈ segmentPages, pteValid (Mem.entry m' n v) = false) : SlotsInv m' := by
  have hc : Mem.procCount m' = Mem.procCount m := hb.phys_lt_three hn (by decide)
  have hne : ∀ {p : Word}, p.toNat < (Mem.procCount m).toNat → n ≠ p := by
    rintro p hp rfl
    rw [hcount] at hp
    omega
  refine ⟨by rw [hc]; exact hs.count, fun p v hp hv => ?_, fun p hp => ?_, fun p hp => ?_⟩
  · have hold : n = p → v ∉ segmentPages := by
      rintro rfl hmem
      rw [hun v hmem] at hv
      cases hv
    rw [hb.entry hn hp hold] at hv
    have hlive := hs.mappedLive p v hp hv
    rwa [hc, (hb.pcb hn hp).1, if_neg (hne hlive.1)]
  · rw [hc] at hp
    rw [(hb.pcb hn (lt_of_lt_of_le hp hs.count)).1, if_neg (hne hp)]
    exact hs.pidWords p hp
  · rw [hc] at hp
    rw [(hb.pcb hn (lt_of_lt_of_le hp hs.count)).2, if_neg (hne hp)]
    exact hs.savedPtbrs p hp

/-- The current process is not the one that is built: it stays live. -/
theorem Building.currentLive {ptbr : Word} (hcur : CurrentLive m ptbr) (hcount : n = Mem.procCount m) :
    CurrentLive m' ptbr := by
  have hlt := hcur.lt_count
  rw [← hcount] at hlt
  refine hcur.congr (hb.phys_lt_three hn (by decide))
    (le_of_eq (congrArg _ (hb.phys_lt_three hn (by decide)).symm)) ?_
  rw [(hb.pcb hn (by omega)).1, if_neg (by rintro e; rw [← e] at hlt; omega)]

/-- It stays live when the new pid is counted. -/
theorem Building.currentLive_counted {ptbr : Word} (hcur : CurrentLive m ptbr) (hcount : n = Mem.procCount m) :
    CurrentLive (Mem.setPhys m' config.procCountAddr (n + 1)) ptbr := by
  have h := hb.currentLive hn hcur hcount
  have hc : Mem.procCount m' = n := (hb.phys_lt_three hn (by decide)).trans hcount.symm
  have hlt := h.lt_count
  rw [hc] at hlt
  refine h.congr (by simp [Mem.curPid]) ?_ ((samePcbs_setPhys m' _ (.inl (by decide))).pid _ (by omega))
  rw [procCount_counted m' hn, hc]
  omega

end create

/-! ## Create -/

/-- Create keeps the tables, the slots, and a current process that is live. -/
theorem create_keeps_parts {s : State} {code heap : List Word} (ht : TablesInv s.mem) (hs : SlotsInv s.mem)
    (hcode : code.length ≤ 4096) (hheap : heap.length ≤ 4096) :
    TablesInv (s.create code heap).2.mem ∧ SlotsInv (s.create code heap).2.mem ∧
      ∀ ptbr, CurrentLive s.mem ptbr → CurrentLive (s.create code heap).2.mem ptbr := by
  have hn : Mem.tableFull s.mem = false → (Mem.procCount s.mem).toNat < 64 := by
    intro h
    rw [Mem.tableFull, Bool.or_eq_false_iff, decide_eq_false_iff_not] at h
    exact not_le.1 h.2
  rcases s.create_cases code heap with ⟨_, e⟩ | ⟨m, hfull, hbuild, e⟩ | ⟨f, m, hfull, hbuild, e⟩ <;> rw [e]
  · refine ⟨ht.setPhys_other _ (by decide) (by decide) (.inl (by decide)),
      hs.setPhys_other _ (by decide) (.inl (by decide)), fun ptbr hcur => ?_⟩
    refine hcur.congr ?_ (le_of_eq ?_) ((samePcbs_setPhys s.mem _ (.inl (by decide))).pid _ (hcur.lt hs)) <;>
      simp [Mem.curPid, Mem.procCount]
  · have hb := buildProcess_building (hn hfull) ht hcode hheap
    rw [hbuild] at hb
    exact ⟨hb.tables.setPhys_other _ (by decide) (by decide) (.inl (by decide)),
      hb.slots_of_counted (hn hfull) hs rfl, fun ptbr hcur => hb.currentLive_counted (hn hfull) hcur rfl⟩
  · have hb := buildProcess_building (hn hfull) ht hcode hheap
    rw [hbuild] at hb
    have hroll := hb.rollback (hn hfull)
    exact ⟨hroll.tables, hroll.slots_of_unmapped (hn hfull) hs rfl fun v hv => freePages_unmaps (hn hfull) _ hv _,
      fun ptbr hcur => hroll.currentLive (hn hfull) hcur rfl⟩

/-! ## Reset -/

theorem State.reset_phys (a : Word) :
    State.reset.phys a = if a.toNat = 3 then 0xFFF8 else if a.toNat = 4 then 0xFFFF else 0 :=
  resetWord_eq a.toNat

/-- Away from the bitmap memory is 0 after Reset (70 R301). -/
theorem State.reset_phys_zero {a : Word} (ha : a.toNat < 3 ∨ 5 ≤ a.toNat) : State.reset.phys a = 0 := by
  rw [State.reset_phys, if_neg (by omega), if_neg (by omega)]

theorem State.reset_isFree (f : Page) : Mem.isFree State.reset.mem f = decide (3 ≤ f.toNat) := by
  revert f
  decide

theorem State.reset_unmapped {p : Word} (hp : p.toNat < 64) (v : Page) :
    pteValid (Mem.entry State.reset.mem p v) = false := by
  have hb := pteAddr_bounds hp v
  rw [show Mem.entry State.reset.mem p v = 0 from State.reset_phys_zero (by omega)]
  rfl

theorem tablesInv_reset : TablesInv State.reset.mem where
  mappedUsed p v hp hv := by rw [State.reset_unmapped hp] at hv; cases hv
  usedMapped f h3 hf := by rw [State.reset_isFree, decide_eq_true h3] at hf; cases hf
  reservedUsed f h3 := by rw [State.reset_isFree, decide_eq_false (by omega)]
  unshared p _ v _ hp _ hv := by rw [State.reset_unmapped hp] at hv; cases hv
  reservedUnmapped p v hp _ := State.reset_unmapped hp v

/-- After Reset no process is created. -/
theorem State.reset_procCount : Mem.procCount State.reset.mem = 0 := State.reset_phys_zero (.inl (by decide))

theorem slotsInv_reset : SlotsInv State.reset.mem where
  count := by rw [State.reset_procCount]; decide
  mappedLive p v hp hv := by rw [State.reset_unmapped hp] at hv; cases hv
  pidWords p hp := by rw [State.reset_procCount] at hp; exact absurd hp (Nat.not_lt_zero _)
  savedPtbrs p hp := by rw [State.reset_procCount] at hp; exact absurd hp (Nat.not_lt_zero _)

theorem osInv_reset : State.reset.OsInv :=
  osInv_of_parts tablesInv_reset slotsInv_reset fun hr => by cases hr

theorem machineInv_reset : State.reset.MachineInv :=
  ⟨osInv_reset, fun hr => (by cases hr), fun hl => by cases hl⟩

/-- Reset keeps the draws counter of its state, which no invariant reads. -/
theorem machineInv_hostReset (s : State) : s.hostReset.MachineInv :=
  ⟨osInv_reset.of_low (fun _ _ => rfl) rfl id, fun hr => (by cases hr), fun hl => by cases hl⟩

/-! ## The host commands -/

theorem create_frame (s : State) (code heap : List Word) :
    (s.create code heap).2.ptbr = s.ptbr ∧ (s.create code heap).2.run = s.run ∧
      (s.create code heap).2.phase = s.phase := by
  rcases s.create_cases code heap with ⟨_, e⟩ | ⟨_, _, _, e⟩ | ⟨_, _, _, _, e⟩ <;> rw [e] <;> exact ⟨rfl, rfl, rfl⟩

/-- Create keeps the invariants of the OS state (46 R223). -/
theorem State.OsInv.create {s : State} {code heap : List Word} (h : s.OsInv) (hcode : code.length ≤ 4096)
    (hheap : heap.length ≤ 4096) : (s.create code heap).2.OsInv := by
  obtain ⟨ht, hs, hcur⟩ := create_keeps_parts h.tables h.slots hcode hheap
  obtain ⟨hptbr, hrun, _⟩ := create_frame s code heap
  refine osInv_of_parts ht hs fun hr => ?_
  rw [hptbr]
  exact hcur _ (h.currentLive (hrun ▸ hr))

theorem State.MachineInv.create {s : State} {code heap : List Word} (h : s.MachineInv)
    (hcode : code.length ≤ 4096) (hheap : heap.length ≤ 4096) : (s.create code heap).2.MachineInv := by
  obtain ⟨_, _, hcur⟩ := create_keeps_parts h.os.tables h.os.slots hcode hheap
  obtain ⟨hptbr, hrun, hphase⟩ := create_frame s code heap
  refine ⟨h.os.create hcode hheap, fun hr => ?_, fun hl => ?_⟩
  · rw [hphase]
    exact h.runs (hrun ▸ hr)
  · rw [currentIsLive_iff, hptbr]
    exact hcur _ ((currentIsLive_iff s).1 (h.loaded (hphase ▸ hl)))

/-- Load by the host makes the pid, which must be live, the current one (70 R309). -/
theorem State.MachineInv.hostLoad {s : State} {pid : Word} (h : s.MachineInv) (hr : s.run = false)
    (hlive : s.isLivePid pid = true) : (s.hostLoad pid).MachineInv := by
  obtain ⟨hlt, hpid⟩ := (s.isLivePid_iff pid).1 hlive
  have hne : Mem.pcbPid s.mem pid ≠ noPid := by
    rw [hpid]
    exact ne_noPid_of_lt (lt_of_lt_of_le hlt h.os.slots.count)
  have hos := osInv_load h.os.tables h.os.slots hlt hne
  have hrun : (s.hostLoad pid).run ≠ true := by rw [State.hostLoad_run, hr]; decide
  refine ⟨hos.of_low (fun _ _ => rfl) rfl id, fun e => absurd e hrun, fun _ => ?_⟩
  exact (currentIsLive_iff _).2 (currentLive_load h.os.slots hlt hne)

/-- Start runs the process that was loaded (70 R310). -/
theorem State.MachineInv.hostStart {s : State} (h : s.MachineInv) (hl : s.phase = .loaded) :
    s.hostStart.MachineInv ∧ s.hostStart.CurrentIsLive :=
  have hlive : s.hostStart.CurrentIsLive := h.loaded hl
  ⟨⟨osInv_of_parts h.os.tables h.os.slots fun _ => (currentIsLive_iff _).1 hlive, fun _ => rfl,
    fun e => by cases e⟩, hlive⟩

/-- Every accepted host command keeps the invariants of the machine with its host. -/
theorem State.MachineInv.hostAct {c : Command} {s t : State} {r : Reply} (h : s.MachineInv)
    (e : Machine.hostAct c s = .next (r, t)) : t.MachineInv := by
  rcases hostAct_cases e with ⟨_, _, rfl⟩ | ⟨code, heap, _, _, hcode, hheap, _, rfl⟩ |
    ⟨pid, _, hboot, hlive, _, rfl⟩ | ⟨_, _, hl, _, rfl⟩ | ⟨items, _, _, rfl⟩ | ⟨_, _, _, rfl⟩
  · exact machineInv_hostReset s
  · exact h.create hcode hheap
  · exact h.hostLoad (s.acceptsBoot_iff.1 hboot).1 hlive
  · exact (h.hostStart hl).1
  · exact ⟨h.os.of_low (fun _ _ => rfl) rfl id, h.runs, h.loaded⟩
  · exact h

/-- An accepted Start leaves a machine that runs a live process under its own table. -/
theorem State.MachineInv.start_runs_live {s t : State} {r : Reply} (h : s.MachineInv)
    (e : Machine.hostAct .start s = .next (r, t)) : t.run = true ∧ t.CurrentIsLive := by
  obtain ⟨_, hl, _, rfl⟩ : s.acceptsBoot = true ∧ s.phase = .loaded ∧ r = .done ∧ t = s.hostStart := by
    simpa using hostAct_cases e
  exact ⟨rfl, (h.hostStart hl).2⟩

/-- Settles O60: Create keeps the tables in order at every point of its work, its failures and the rollback included;
Load and Start make a live process the current one; the other commands leave the OS words alone or reset them. -/
theorem hostCommandsKeepInvariants : Obligations.HostCommandsKeepInvariants :=
  ⟨fun _ _ _ h _ hcode hheap => h.create hcode hheap, fun _ _ _ _ h e => h.hostAct e,
    fun _ _ _ h e => h.start_runs_live e⟩

end Sys2Proof.Machine
end

section
/-! The rest of the statements about the state: RCND, the canonical form of memory, the process switch, the values
after Reset, and the count of frames (10 R26, R28, R29, R48 (f), R50). -/

namespace Sys2Proof.Machine

/-! ## RCND -/

/-- The instructions with a DR field, which set the flags (10 R28). -/
def writesFlags : Instr → Bool
  | .add _ _ _ | .addi _ _ _ | .and _ _ _ | .andi _ _ _ | .not _ _ | .ld _ _ | .ldi _ _ | .ldr _ _ _
  | .lea _ _ => true
  | _ => false

theorem finishLoad_rcnd {s t : State} {dr : Reg} {r : Except Raised Word} (h : s.finishLoad dr r = .next t) :
    t.rcnd = s.rcnd ∨ ∃ v, t.rcnd = flagsOf v := by
  cases r <;> cases h
  · exact .inl rfl
  · exact .inr ⟨_, rfl⟩

theorem store_rcnd {s t : State} {va v : Word} (h : s.finishStore (s.memWrite va v) = .next t) :
    t.rcnd = s.rcnd := by
  unfold State.memWrite at h
  split at h <;> cases h <;> rfl

theorem storeIndirect_rcnd {s t : State} {va v : Word} (h : s.finishStore (s.writeIndirect va v) = .next t) :
    t.rcnd = s.rcnd := by
  unfold State.writeIndirect at h
  split at h
  · cases h; rfl
  · exact store_rcnd h

theorem conIn_rcnd (s : State) : s.conIn.2.rcnd = s.rcnd := by
  unfold State.conIn
  split <;> rfl

/-- What an instruction can do to RCND: nothing, or, if it has a DR field, the flags of some word (10 R27, R28). -/
theorem exec_rcnd {i : Instr} {s t : State} (h : exec i s = .next t) :
    t.rcnd = s.rcnd ∨ writesFlags i = true ∧ ∃ v, t.rcnd = flagsOf v := by
  cases i <;> simp only [exec] at h
  case add | addi | and | andi | not | lea => cases h; exact .inr ⟨rfl, _, rfl⟩
  case ld | ldi | ldr => exact (finishLoad_rcnd h).imp_right fun hv => ⟨rfl, hv⟩
  case st | str => exact .inl (store_rcnd h)
  case sti => exact .inl (storeIndirect_rcnd h)
  case br => cases h; left; split_ifs <;> rfl
  case jmp | jsr | jsrr | rsv8 | rsv13 | out | putsp | outu16 | trapIllegal => cases h; exact .inl rfl
  case getc | inu16 | inEcho => cases h; exact .inl (conIn_rcnd s)
  case puts => unfold execPuts at h; split at h <;> cases h <;> exact .inl rfl
  case yld =>
    unfold execYld at h; split_ifs at h; cases h
    rcases yield_cases s with e | ⟨_, _, _, e⟩ <;> rw [e] <;> exact .inl rfl
  case halt =>
    unfold execHalt at h; split_ifs at h; cases h
    rcases halt_cases s with ⟨_, e⟩ | ⟨_, _, e⟩ <;> rw [e] <;> exact .inl rfl
  case brk =>
    cases h
    rcases heapBreak_cases s with ⟨_, e⟩ | ⟨_, _, _, _, e⟩ | ⟨_, _, _, e⟩ <;> rw [e] <;> exact .inl rfl

theorem flagsOf_oneFlag (v : Word) : flagsOf v = 0b100 ∨ flagsOf v = 0b010 ∨ flagsOf v = 0b001 := by
  unfold flagsOf
  split_ifs
  · exact .inl rfl
  · exact .inr (.inl rfl)
  · exact .inr (.inr rfl)

/-- Settles O46: a step leaves RCND as it was or writes the flags of a word, of which exactly one is set. -/
theorem stepKeepsOneFlagSet : Obligations.StepKeepsOneFlagSet := by
  intro s t hs e
  rcases step_cases e with ⟨_, rfl⟩ | ⟨_, _, _, rfl⟩ | ⟨_, _, _, he⟩
  · exact hs
  · exact hs
  · rcases exec_rcnd he with h | ⟨_, v, h⟩
    · rw [State.OneFlag, h]; exact hs
    · rw [State.OneFlag, h]; exact flagsOf_oneFlag v

/-! ## Nothing but BR reads RCND -/

/-- The state with another RCND. -/
def State.withRcnd (s : State) (c : BitVec 3) : State := { s with rcnd := c }

section withRcnd
variable (s : State) (c : BitVec 3)

@[simp] theorem State.withRcnd_mem : (s.withRcnd c).mem = s.mem := rfl
@[simp] theorem State.withRcnd_ptbr : (s.withRcnd c).ptbr = s.ptbr := rfl
@[simp] theorem State.withRcnd_consoleIn : (s.withRcnd c).consoleIn = s.consoleIn := rfl
@[simp] theorem State.withRcnd_reg (i : Reg) : (s.withRcnd c).reg i = s.reg i := rfl
@[simp] theorem State.withRcnd_setReg (i : Reg) (v : Word) :
    (s.withRcnd c).setReg i v = (s.setReg i v).withRcnd c := rfl
@[simp] theorem State.withRcnd_setRun (b : Bool) : (s.withRcnd c).setRun b = (s.setRun b).withRcnd c := rfl
@[simp] theorem State.withRcnd_emit (cs : List Byte) : (s.withRcnd c).emit cs = (s.emit cs).withRcnd c := rfl
@[simp] theorem State.withRcnd_diag (e : Failure) : (s.withRcnd c).diag e = (s.diag e).withRcnd c := rfl
@[simp] theorem State.withRcnd_save (cur : Word) : (s.withRcnd c).save cur = (s.save cur).withRcnd c := rfl
@[simp] theorem State.withRcnd_load (pid : Word) : (s.withRcnd c).load pid = (s.load pid).withRcnd c := rfl
@[simp] theorem State.withRcnd_terminate : (s.withRcnd c).terminate = s.terminate.withRcnd c := rfl
@[simp] theorem State.withRcnd_scanDefined : (s.withRcnd c).scanDefined = s.scanDefined := rfl

@[simp] theorem State.withRcnd_translate (k : Access) (va : Word) :
    (s.withRcnd c).translate k va = s.translate k va :=
  State.translate_congr rfl rfl k va

@[simp] theorem State.withRcnd_memRead (va : Word) : (s.withRcnd c).memRead va = s.memRead va :=
  State.memRead_congr rfl rfl va

@[simp] theorem State.withRcnd_readIndirect (va : Word) : (s.withRcnd c).readIndirect va = s.readIndirect va := by
  simp only [State.readIndirect, State.withRcnd_memRead]

@[simp] theorem State.withRcnd_conIn : (s.withRcnd c).conIn = (s.conIn.1, s.conIn.2.withRcnd c) := by
  unfold State.conIn
  rw [State.withRcnd_consoleIn]
  split <;> rfl

theorem stringWalk_withRcnd (fuel : Nat) : ∀ a : Word, (s.withRcnd c).stringWalk fuel a = s.stringWalk fuel a := by
  induction fuel with
  | zero => exact fun _ => rfl
  | succ fuel ih =>
    intro a
    rw [State.stringWalk, State.stringWalk, State.withRcnd_memRead, ih]

@[simp] theorem State.withRcnd_stringAt (a : Word) : (s.withRcnd c).stringAt a = s.stringAt a :=
  stringWalk_withRcnd s c (stringFuel a) a

@[simp] theorem State.withRcnd_yield : (s.withRcnd c).yield = s.yield.withRcnd c := by
  unfold State.yield
  dsimp only [State.withRcnd_mem, State.withRcnd_save]
  split
  · rw [State.withRcnd_load, apply_ite (State.withRcnd · c)]; rfl
  · rfl

@[simp] theorem State.withRcnd_halt : (s.withRcnd c).halt = s.halt.withRcnd c := by
  unfold State.halt
  dsimp only [State.withRcnd_mem, State.withRcnd_terminate]
  split <;> rfl

@[simp] theorem State.withRcnd_finishBrk (r : Except Failure Mem) :
    (s.withRcnd c).finishBrk r = (s.finishBrk r).withRcnd c := by
  cases r <;> rfl

@[simp] theorem State.withRcnd_heapBreak : (s.withRcnd c).heapBreak = s.heapBreak.withRcnd c := by
  simp only [State.heapBreak, State.withRcnd_reg, State.withRcnd_mem, State.withRcnd_ptbr, State.withRcnd_diag,
    State.withRcnd_finishBrk, apply_ite (State.withRcnd · c)]

end withRcnd

theorem finishLoad_withRcnd {s t : State} {dr : Reg} {r : Except Raised Word} (c : BitVec 3)
    (h : s.finishLoad dr r = .next t) :
    ∃ c', (s.withRcnd c).finishLoad dr r = .next (t.withRcnd c') := by
  cases r <;> cases h
  · exact ⟨c, rfl⟩
  · exact ⟨_, rfl⟩

theorem store_withRcnd {s t : State} {va v : Word} (c : BitVec 3)
    (h : s.finishStore (s.memWrite va v) = .next t) :
    (s.withRcnd c).finishStore ((s.withRcnd c).memWrite va v) = .next (t.withRcnd c) := by
  simp only [State.memWrite, State.withRcnd_translate] at h ⊢
  cases ht : s.translate .write va <;> rw [ht] at h <;> cases h <;> rfl

theorem storeIndirect_withRcnd {s t : State} {va v : Word} (c : BitVec 3)
    (h : s.finishStore (s.writeIndirect va v) = .next t) :
    (s.withRcnd c).finishStore ((s.withRcnd c).writeIndirect va v) = .next (t.withRcnd c) := by
  simp only [State.writeIndirect, State.withRcnd_memRead] at h ⊢
  cases hr : s.memRead va with
  | error f => rw [hr] at h; cases h; rfl
  | ok ea => rw [hr] at h; exact store_withRcnd c h

/-- An instruction other than BR does the same to everything but RCND whatever RCND holds (10 R28). -/
theorem exec_withRcnd {i : Instr} {s t : State} (c : BitVec 3) (hbr : ∀ m o, i ≠ .br m o)
    (h : exec i s = .next t) : ∃ c', exec i (s.withRcnd c) = .next (t.withRcnd c') := by
  cases i <;> simp only [exec] at h ⊢
  case br nzp off => exact absurd rfl (hbr nzp off)
  case add | addi | and | andi | not | lea => cases h; exact ⟨_, rfl⟩
  case ld | ldr =>
    have hl := finishLoad_withRcnd c h
    rwa [← s.withRcnd_memRead c] at hl
  case ldi =>
    have hl := finishLoad_withRcnd c h
    rwa [← s.withRcnd_readIndirect c] at hl
  case st | str => exact ⟨c, store_withRcnd c h⟩
  case sti => exact ⟨c, storeIndirect_withRcnd c h⟩
  case jmp | jsr | jsrr | rsv8 | rsv13 | out | putsp | outu16 | trapIllegal => cases h; exact ⟨c, rfl⟩
  case getc | inu16 | inEcho =>
    cases h
    exact ⟨c, by simp [execGetc, execInu16, execIn, State.conOut]⟩
  case puts =>
    unfold execPuts at h ⊢
    rw [State.withRcnd_reg, State.withRcnd_stringAt]
    split at h <;> cases h <;> exact ⟨c, rfl⟩
  case yld =>
    unfold execYld at h ⊢
    split_ifs at h with hs
    cases h
    exact ⟨c, by simp [hs]⟩
  case halt =>
    unfold execHalt at h ⊢
    split_ifs at h with hs
    cases h
    exact ⟨c, by simp [hs]⟩
  case brk => cases h; exact ⟨c, by rw [execBrk, State.withRcnd_heapBreak]⟩

/-- Settles O52: only the instructions with a DR field write the flags, and every operation but the branch condition
commutes with a change of RCND. -/
theorem rcndIsReadOnlyByBrAndWrittenByDestinations : Obligations.RcndIsReadOnlyByBrAndWrittenByDestinations := by
  refine ⟨fun i s t h hadd haddi hand handi hnot hld hldi hldr hlea => ?_,
    fun i s t c hbr h => exec_withRcnd c hbr h⟩
  refine (exec_rcnd h).resolve_right fun ⟨hw, _⟩ => ?_
  unfold writesFlags at hw
  split at hw
  · exact hadd _ _ _ rfl
  · exact haddi _ _ _ rfl
  · exact hand _ _ _ rfl
  · exact handi _ _ _ rfl
  · exact hnot _ _ rfl
  · exact hld _ _ rfl
  · exact hldi _ _ rfl
  · exact hldr _ _ _ rfl
  · exact hlea _ _ rfl
  · cases hw

/-! ## The canonical form of memory -/

/-- Every instruction keeps memory in its canonical form. -/
theorem exec_wf {i : Instr} {s t : State} (hs : Mem.wf s.mem) (h : exec i s = .next t) : Mem.wf t.mem := by
  rcases exec_cases h with hreg | ⟨_, _, pa, v, _, rfl⟩ | ⟨_, _, rfl⟩ | ⟨_, _, rfl⟩ | ⟨_, rfl⟩
  · rw [hreg.mem]; exact hs
  · exact Mem.setPhys_wf pa v hs
  · exact yield_wf hs
  · exact halt_wf hs
  · exact heapBreak_wf hs

/-- Settles O47: every write an instruction can make keeps the form. -/
theorem stepKeepsMemoryCanonical : Obligations.StepKeepsMemoryCanonical := by
  intro s t hs e
  rcases step_cases e with ⟨_, rfl⟩ | ⟨_, _, _, rfl⟩ | ⟨_, _, _, he⟩
  · exact hs
  · exact hs
  · exact exec_wf (s := s.advance) hs he

/-! ## The process switch -/

/-- BRK keeps PTBR and, where a process runs, the three OS words before the bitmap. -/
theorem heapBreak_frame {s : State} (h : s.OsInv) (hr : s.run = true) :
    s.heapBreak.ptbr = s.ptbr ∧ ∀ a : Word, a.toNat < 3 → s.heapBreak.phys a = s.phys a := by
  have hcur := h.currentLive hr
  have hlt := hcur.lt h.slots
  rcases heapBreak_cases s with ⟨_, e⟩ | ⟨m, hm, _, _, e⟩ | ⟨m, hm, _, e⟩ <;> rw [e]
  · exact ⟨rfl, fun _ _ => rfl⟩
  · rw [hcur.ptbr_eq] at hm
    exact ⟨rfl, fun a ha => (allocate_tableOnly (List.mem_singleton_self _) hm).phys_lt_three hlt ha⟩
  · rw [hcur.ptbr_eq] at hm
    rw [← freeQuiet_eq_of_free hm]
    exact ⟨rfl, fun a ha => (freeQuiet_tableOnly s.mem (List.mem_singleton_self _)).phys_lt_three hlt ha⟩

/-- Settles O53: a store of a running process lands above the OS words, and BRK changes the bitmap and one entry. -/
theorem onlyYldAndHaltSwitchProcess : Obligations.OnlyYldAndHaltSwitchProcess := by
  intro i s t h hr hyld hhalt e
  rcases exec_cases e with hreg | ⟨_, _, pa, v, hpa, rfl⟩ | ⟨hi, _⟩ | ⟨hi, _⟩ | ⟨_, rfl⟩
  · exact ⟨hreg.ptbr, congrArg (Mem.phys · 0x0000) hreg.mem⟩
  · exact ⟨rfl, phys_setPhys_low (h.translate_ge hr hpa) (by decide)⟩
  · exact absurd hi hyld
  · exact absurd hi hhalt
  · obtain ⟨hptbr, hlow⟩ := heapBreak_frame h hr
    exact ⟨hptbr, hlow _ (by decide)⟩

/-! ## Reset -/

theorem State.reset_reg (i : Reg) : State.reset.reg i = 0 := by
  simp [State.reg, State.reset]

/-- Settles O44: the registers by their definition, memory by the word an unlisted address holds. -/
theorem resetValues : Obligations.ResetValues := by
  refine ⟨State.reset_reg, rfl, rfl, rfl, rfl, rfl, rfl, State.reset_phys 3, State.reset_phys 4, fun a h3 h4 => ?_,
    rfl, rfl, rfl⟩
  have h3' : a.toNat ≠ 3 := fun e => h3 (BitVec.eq_of_toNat_eq e)
  have h4' : a.toNat ≠ 4 := fun e => h4 (BitVec.eq_of_toNat_eq e)
  rw [State.reset_phys, if_neg h3', if_neg h4']

/-- Settles O45: after Reset no process is created, no page is mapped, and the frames from 3 on are free. -/
theorem resetSatisfiesInvariants : Obligations.ResetSatisfiesInvariants :=
  ⟨.inr (.inl rfl), osInv_reset, machineInv_reset, State.reset_mem_wf⟩

/-! ## The count of frames -/

/-- All 32 page or frame numbers, as a set. -/
@[irreducible] def allPages : Finset Page := pages.toFinset

theorem mem_allPages (f : Page) : f ∈ allPages := by
  rw [allPages, List.mem_toFinset]
  exact mem_pages f

/-- Counting in the list of pages is counting in the set. -/
theorem length_filter_pages (P : Page → Bool) : (pages.filter P).length = (allPages.filter (P · = true)).card := by
  have hnodup : pages.Nodup := by decide
  rw [allPages, ← List.toFinset_filter, List.toFinset_card_of_nodup (hnodup.filter P)]

/-- The valid entries of the 64 page tables, as pairs of a pid and a page. Irreducible, as is `allPages`: unfolding
either in search of a head symbol evaluates the enumeration. -/
@[irreducible] def State.validSet (s : State) : Finset (Σ _ : Nat, Page) :=
  (Finset.range 64).sigma fun p => allPages.filter fun v => decide (s.Maps (BitVec.ofNat 16 p) v) = true

theorem mem_validSet (s : State) (x : Σ _ : Nat, Page) :
    x ∈ s.validSet ↔ x.1 < 64 ∧ pteValid (Mem.entry s.mem (BitVec.ofNat 16 x.1) x.2) = true := by
  simp [State.validSet, mem_allPages, maps_iff]

theorem validEntries_eq_card (s : State) : s.validEntries = s.validSet.card := by
  rw [State.validSet, Finset.card_sigma, State.validEntries]
  simp only [length_filter_pages]
  rfl

/-- The frames from 3 on that are marked used. -/
def State.usedSet (s : State) : Finset Page :=
  allPages.filter fun f => 3 ≤ f.toNat ∧ Mem.isFree s.mem f = false

/-- The valid entries and the used frames from 3 on correspond one to one (10 R48 (a) to (c)). -/
theorem card_validSet {s : State} (h : TablesInv s.mem) : s.validSet.card = s.usedSet.card := by
  have hlt : ∀ {p : Nat}, p < 64 → (BitVec.ofNat 16 p).toNat = p := fun hp => by
    rw [BitVec.toNat_ofNat]
    omega
  refine Finset.card_bij (fun x _ => ptePfn (Mem.entry s.mem (BitVec.ofNat 16 x.1) x.2)) ?_ ?_ ?_
  · intro x hx
    obtain ⟨hp, hv⟩ := (mem_validSet s x).1 hx
    exact Finset.mem_filter.2 ⟨mem_allPages _, h.mappedUsed _ _ (by rw [hlt hp]; exact hp) hv⟩
  · rintro ⟨p, v⟩ hx ⟨q, u⟩ hy hpfn
    obtain ⟨hp, hv⟩ := (mem_validSet s _).1 hx
    obtain ⟨hq, hu⟩ := (mem_validSet s _).1 hy
    obtain ⟨hpq, rfl⟩ := h.unshared _ _ _ _ (by rw [hlt hp]; exact hp) (by rw [hlt hq]; exact hq) hv hu hpfn
    have := congrArg BitVec.toNat hpq
    rw [hlt hp, hlt hq] at this
    obtain rfl := this
    rfl
  · intro f hf
    obtain ⟨_, h3, hused⟩ := Finset.mem_filter.1 hf
    obtain ⟨p, v, hp, hv, hpfn⟩ := h.usedMapped f h3 hused
    exact ⟨⟨p.toNat, v⟩, (mem_validSet s _).2 ⟨hp, by simpa using hv⟩, by simpa using hpfn⟩

/-- Every frame from 3 on is free or used, and no other frame is either. -/
theorem card_free_add_card_used {s : State} (h : TablesInv s.mem) :
    (allPages.filter fun f => Mem.isFree s.mem f = true).card + s.usedSet.card = 29 := by
  have hsplit : (allPages.filter fun f => Mem.isFree s.mem f = true) ∪ s.usedSet =
      allPages.filter fun f => 3 ≤ f.toNat := by
    ext f
    simp only [State.usedSet, Finset.mem_union, Finset.mem_filter, mem_allPages, true_and]
    cases hf : Mem.isFree s.mem f
    · simp
    · simpa using h.three_le_of_isFree hf
  have hdisj : Disjoint (allPages.filter fun f => Mem.isFree s.mem f = true) s.usedSet := by
    refine Finset.disjoint_filter.2 fun f _ hf hused => ?_
    rw [hused.2] at hf
    cases hf
  have hcount := length_filter_pages fun f => decide (3 ≤ f.toNat)
  simp only [decide_eq_true_eq] at hcount
  rw [← Finset.card_union_of_disjoint hdisj, hsplit, ← hcount]
  decide

/-- Settles O49: the 29 frames from 3 on are free or used, and the used ones are those of the valid entries. -/
theorem freeFramesAndValidEntriesSumTo29 : Obligations.FreeFramesAndValidEntriesSumTo29 := by
  intro s h
  rw [validEntries_eq_card, card_validSet h.tables, State.freeFrames, length_filter_pages,
    ← card_free_add_card_used h.tables]
  simp only [frameFree_iff, decide_eq_true_eq]

end Sys2Proof.Machine
end

section
/-! Translated access to memory (20 R66 to R85): what it checks and computes, in numbers; that a write of a running
process does not disturb its own translation; and which operations reach the frames from 3 on. -/

namespace Sys2Proof.Machine

/-! ## The translator in numbers -/

/-- The entry of the page of an address is the word at PTBR plus the page number (20 R66, R73). -/
theorem pte_vpnOf (s : State) (va : Word) :
    Mem.pte s.mem s.ptbr (vpnOf va) = s.phys (s.ptbr + BitVec.ofNat 16 (va.toNat / 2048)) := by
  have hvpn : (vpnOf va).setWidth 16 = BitVec.ofNat 16 (va.toNat / 2048) :=
    BitVec.eq_of_toNat_eq (by rw [BitVec.toNat_setWidth, BitVec.toNat_ofNat, vpnOf_toNat])
  rw [Mem.pte, pteAddr, hvpn]
  rfl

/-- Frame and offset, concatenated, as a sum (20 R75). -/
theorem physAddr_eq_ofNat (pte va : Word) :
    physAddr (ptePfn pte) (offsetOf va) = BitVec.ofNat 16 (pte.toNat / 2048 * 2048 + va.toNat % 2048) := by
  have hsum := physAddr_toNat (ptePfn pte) (offsetOf va)
  rw [ptePfn_toNat, offsetOf_toNat] at hsum
  rw [← hsum, BitVec.ofNat_toNat, BitVec.setWidth_eq]

theorem physAddr_toNat_div (pfn : Page) (off : BitVec 11) : (physAddr pfn off).toNat / 2048 = pfn.toNat := by
  have hoff := off.isLt
  rw [physAddr_toNat]
  omega

/-- The checks of a translated access in their order, on numbers (20 R70, R71, R72). -/
theorem State.translate_eq_checks (s : State) (k : Access) {va pte : Word}
    (hpte : pte = s.phys (s.ptbr + BitVec.ofNat 16 (va.toNat / 2048))) :
    s.translate k va =
      if va.toNat / 2048 < 3 then .error ⟨.segFault, va⟩
      else if pteValid pte = false then .error ⟨.freeSpaceFault, va⟩
      else if ptePermits k pte = false then .error ⟨protFault k, va⟩
      else .ok (BitVec.ofNat 16 (pte.toNat / 2048 * 2048 + va.toNat % 2048)) := by
  rw [State.translate, pte_vpnOf, ← hpte]
  simp only [isReservedPage_iff, vpnOf_toNat, Bool.not_eq_true', physAddr_eq_ofNat]

/-- A physical write changes its one word and nothing else (20 R65). -/
theorem storesOnly_setPhys (s : State) (pa v : Word) : StoresOnly s pa v (s.setPhys pa v) where
  value := by rw [State.phys_setPhys, if_pos rfl]
  memory a ha := by rw [State.phys_setPhys, if_neg ha.symm]
  regs := s.setPhys_reg pa v
  rcnd := rfl
  rpc := rfl
  control := ⟨rfl, rfl, rfl, rfl, rfl⟩
  streams := ⟨rfl, rfl, rfl, rfl⟩

/-- Settles O11: a read is its translation, then the word at the address. -/
theorem translatedReadChecksInOrder : Obligations.TranslatedReadChecksInOrder := by
  intro s va pte hpte
  have htr := s.translate_eq_checks .read hpte
  split_ifs with h3 hvalid hread
  · exact (s.memRead_error_iff va _).2 (htr.trans (if_pos h3))
  · exact (s.memRead_error_iff va _).2 (htr.trans ((if_neg h3).trans (if_pos hvalid)))
  · exact (s.memRead_error_iff va _).2 (htr.trans ((if_neg h3).trans ((if_neg hvalid).trans (if_pos hread))))
  · exact (s.memRead_ok_iff va _).2
      ⟨_, htr.trans ((if_neg h3).trans ((if_neg hvalid).trans (if_neg hread))), rfl⟩

/-- Settles O12: a write is its translation, then the change of the one word. -/
theorem translatedWriteChecksInOrder : Obligations.TranslatedWriteChecksInOrder := by
  intro s va v pte hpte
  have htr := s.translate_eq_checks .write hpte
  split_ifs with h3 hvalid hwrite
  · exact (s.memWrite_error_iff va v _).2 (htr.trans (if_pos h3))
  · exact (s.memWrite_error_iff va v _).2 (htr.trans ((if_neg h3).trans (if_pos hvalid)))
  · exact (s.memWrite_error_iff va v _).2 (htr.trans ((if_neg h3).trans ((if_neg hvalid).trans (if_pos hwrite))))
  · exact ⟨_, (s.memWrite_ok_iff _ va v).2
      ⟨_, htr.trans ((if_neg h3).trans ((if_neg hvalid).trans (if_neg hwrite))), rfl⟩, storesOnly_setPhys s _ v⟩

/-! ## Read after write through the translator -/

/-- Where an address can be read and written, both accesses reach the same word (20 R75). -/
theorem State.translate_ok_unique {s : State} {k k' : Access} {va pa pa' : Word} (h : s.translate k va = .ok pa)
    (h' : s.translate k' va = .ok pa') : pa = pa' := by
  obtain ⟨_, _, _, rfl⟩ := (s.translate_ok_iff k va pa).1 h
  obtain ⟨_, _, _, rfl⟩ := (s.translate_ok_iff k' va pa').1 h'
  rfl

/-- A write of a running process to a word it reaches leaves its own translation as it was: its page table lies below
frame 3 (20 R80). -/
theorem State.OsInv.translate_setPhys {s : State} (h : s.OsInv) (hr : s.run = true) {pa : Word}
    (hpa : 0x1800 ≤ pa.toNat) (v : Word) (k : Access) (va : Word) :
    (s.setPhys pa v).translate k va = s.translate k va := by
  have hcur := h.currentLive hr
  have hpte : Mem.pte (Mem.setPhys s.mem pa v) s.ptbr (vpnOf va) = Mem.pte s.mem s.ptbr (vpnOf va) := by
    rw [hcur.ptbr_eq]
    exact entry_setPhys_other (hcur.lt h.slots) s.mem (vpnOf va) v (.inr hpa)
  simp only [State.translate, State.setPhys_mem, State.setPhys_ptbr, hpte]

/-- Settles O55: the write lands above the page tables, so the read translates as before and finds the word. -/
theorem storedWordIsReadBack : Obligations.StoredWordIsReadBack := by
  rintro s t va v h hr hw ⟨pa', hread⟩
  obtain ⟨pa, hwrite, rfl⟩ := (s.memWrite_ok_iff t va v).1 hw
  obtain rfl := State.translate_ok_unique hwrite hread
  have hback : (s.setPhys pa v).memRead va = .ok v := by
    refine (State.memRead_ok_iff _ va v).2 ⟨pa, ?_, ?_⟩
    · rw [h.translate_setPhys hr (h.translate_ge hr hwrite), hread]
    · rw [State.phys_setPhys, if_pos rfl]
  exact ⟨hback, (State.memRead_congr rfl rfl va).trans hback⟩

/-! ## The OS operations leave the frames from 3 on alone -/

/-- A write below frame 3 changes no word from there on. -/
theorem phys_setPhys_high {m : Mem} {pa a w : Word} (hpa : pa.toNat < 0x1800) (ha : 0x1800 ≤ a.toNat) :
    Mem.phys (Mem.setPhys m pa w) a = Mem.phys m a := by
  rw [Mem.phys_setPhys, if_neg (word_ne_of_toNat (by omega))]

theorem allocate_phys_high {m m' : Mem} {p a : Word} {v : Page} {r w : Bool} (hp : p.toNat < 64)
    (e : Mem.allocate m (ptbrOf p) v r w = .ok m') (ha : 0x1800 ≤ a.toNat) : Mem.phys m' a = Mem.phys m a := by
  rcases allocate_cases m (ptbrOf p) v r w with ⟨h, _⟩ | ⟨h, _⟩ | ⟨f, h, _⟩ <;> rw [h] at e <;> cases e
  have hbit := bitmapAddrOf_lt f
  exact (phys_setPhys_high (pteAddr_bounds hp v).2 ha).trans (phys_setPhys_high (by omega) ha)

theorem freeQuiet_phys_high {p a : Word} (hp : p.toNat < 64) (m : Mem) (v : Page) (ha : 0x1800 ≤ a.toNat) :
    Mem.phys (Mem.freeQuiet m v (ptbrOf p)) a = Mem.phys m a := by
  rcases freeQuiet_cases m v (ptbrOf p) with ⟨h, _⟩ | ⟨h, _⟩ <;> rw [h]
  have hbit := bitmapAddrOf_lt (ptePfn (Mem.pte m (ptbrOf p) v))
  exact (phys_setPhys_high (pteAddr_bounds hp v).2 ha).trans (phys_setPhys_high (by omega) ha)

theorem freePages_phys_high {p a : Word} (hp : p.toNat < 64) (ha : 0x1800 ≤ a.toNat) (vs : List Page) :
    ∀ m : Mem, Mem.phys (Mem.freePages m (ptbrOf p) vs) a = Mem.phys m a := by
  induction vs with
  | nil => exact fun _ => rfl
  | cons v vs ih => exact fun m => (ih _).trans (freeQuiet_phys_high hp m v ha)

/-- A Load writes `CUR_PID` only (46 R226). -/
theorem load_phys_high (s : State) (pid : Word) {a : Word} (ha : 0x1800 ≤ a.toNat) :
    (s.load pid).phys a = s.phys a :=
  phys_setPhys_high (by decide) ha

section running
variable {s : State} (h : s.OsInv) (hr : s.run = true) {a : Word} (ha : 0x1800 ≤ a.toNat)
include h hr ha

theorem State.OsInv.yield_phys_high : s.yield.phys a = s.phys a := by
  have hsave : (s.save (Mem.curPid s.mem)).phys a = s.phys a :=
    phys_save ((h.currentLive hr).lt h.slots) (.inr (by omega))
  rcases yield_cases s with e | ⟨_, _, _, e⟩ <;> rw [e]
  · exact hsave
  · exact (load_phys_high _ _ ha).trans hsave

theorem State.OsInv.terminate_phys_high : s.terminate.phys a = s.phys a := by
  have hcur := h.currentLive hr
  have hlt := hcur.lt h.slots
  have hpcb := pcbAddr_bounds (k := 0) hlt (by decide)
  rw [State.terminate, hcur.ptbr_eq]
  exact (phys_setPhys_high (by omega) ha).trans (freePages_phys_high hlt ha pages s.mem)

theorem State.OsInv.halt_phys_high : s.halt.phys a = s.phys a := by
  have hterm := h.terminate_phys_high hr ha
  rcases halt_cases s with ⟨_, e⟩ | ⟨_, _, e⟩ <;> rw [e]
  · exact hterm
  · exact (load_phys_high _ _ ha).trans hterm

theorem State.OsInv.heapBreak_phys_high : s.heapBreak.phys a = s.phys a := by
  have hcur := h.currentLive hr
  have hlt := hcur.lt h.slots
  rcases heapBreak_cases s with ⟨_, e⟩ | ⟨m, hm, _, _, e⟩ | ⟨m, hm, _, e⟩ <;> rw [e]
  · rfl
  · rw [hcur.ptbr_eq] at hm
    exact allocate_phys_high hlt hm ha
  · rw [hcur.ptbr_eq] at hm
    rw [← freeQuiet_eq_of_free hm]
    exact freeQuiet_phys_high hlt s.mem _ ha

end running

/-! ## What a store of a running process reaches -/

theorem isStore_iff (i : Instr) : isStore i = true ↔
    (∃ r o, i = .st r o) ∨ (∃ r o, i = .sti r o) ∨ (∃ r b o, i = .str r b o) := by
  cases i <;> simp [isStore]

/-- A translated write of a running process goes to a frame that its own table maps writable (20 R71, R85). -/
theorem State.OsInv.translate_write_own {s : State} (h : s.OsInv) (hr : s.run = true) {va pa : Word}
    (ht : s.translate .write va = .ok pa) :
    ∃ v : Page, s.Maps (s.phys 0x0000) v ∧ (s.pteOf (s.phys 0x0000) v).getLsbD 2 = true ∧
      (s.frameOf (s.phys 0x0000) v).toNat = pa.toNat / 2048 := by
  obtain ⟨_, hvalid, hwritable, rfl⟩ := (s.translate_ok_iff .write va pa).1 ht
  have hptbr : s.ptbr = ptbrOf (s.phys 0x0000) := (h.currentLive hr).ptbr_eq
  rw [hptbr] at hvalid hwritable ⊢
  exact ⟨vpnOf va, hvalid, hwritable, (physAddr_toNat_div _ _).symm⟩

/-- Settles O51: of what an instruction can do, only a store changes a word above the OS frames, and that at an
address its own table gives. -/
theorem storesReachOnlyOwnWritablePages : Obligations.StoresReachOnlyOwnWritablePages := by
  intro i s t a h hr e ha hne
  rcases exec_cases e with hreg | ⟨hi, _, pa, v, hpa, rfl⟩ | ⟨_, _, rfl⟩ | ⟨_, _, rfl⟩ | ⟨_, rfl⟩
  · exact absurd (congrArg (Mem.phys · a) hreg.mem) hne
  · have hat : pa = a := by
      by_contra hpa'
      exact hne (by rw [State.phys_setPhys, if_neg hpa'])
    subst hat
    exact ⟨(isStore_iff i).1 hi, h.translate_write_own hr hpa⟩
  · exact absurd (h.yield_phys_high hr ha) hne
  · exact absurd (h.halt_phys_high hr ha) hne
  · exact absurd (h.heapBreak_phys_high hr ha) hne

end Sys2Proof.Machine
end

section
/-! Proofs about the decoder and the encoder (30 R102 to R110, R114). A word fits one row of the opcode table, and the
decoded instruction is that row with the fields of the word as its operands. -/

namespace Sys2Proof

/-! ## Words under a mask -/

theorem and_eq_of_bits {w m v : Word} (h : ∀ j < 16, (w.getLsbD j && m.getLsbD j) = v.getLsbD j) : w &&& m = v :=
  BitVec.eq_of_getLsbD_eq fun j hj => BitVec.getLsbD_and.trans (h j hj)

theorem getLsbD_of_and_eq {w w' m : Word} {j : Nat} (h : w &&& m = w' &&& m) (hm : m.getLsbD j = true) :
    w.getLsbD j = w'.getLsbD j := by
  simpa only [BitVec.getLsbD_and, hm, Bool.and_true] using congrArg (BitVec.getLsbD · j) h

/-- A field inside the mask is the same in both words. -/
theorem extractLsb'_of_and_eq {w w' m : Word} {start len : Nat} (h : w &&& m = w' &&& m)
    (hm : m.extractLsb' start len = BitVec.allOnes len) : w.extractLsb' start len = w'.extractLsb' start len := by
  have hfield := congrArg (BitVec.extractLsb' start len) h
  rwa [BitVec.extractLsb'_and, BitVec.extractLsb'_and, hm, BitVec.and_allOnes, BitVec.and_allOnes] at hfield

/-- Words that agree under a mask agree under every mask inside it. -/
theorem and_eq_of_submask {w w' m k : Word} (h : w &&& m = w' &&& m) (hk : m &&& k = k) : w &&& k = w' &&& k := by
  rw [← hk, ← BitVec.and_assoc, h, BitVec.and_assoc]

/-! ## The four masks of the opcode table, as fields -/

theorem and_opcodeMask (w : Word) : w &&& 0xF000 = w.extractLsb' 12 4 ++ 0#12 :=
  and_eq_of_bits fun j hj => by
    rw [BitVec.getLsbD_append, BitVec.getLsbD_extractLsb']
    interval_cases j <;> simp

/-- The mask of the rows that bit 5 tells apart: ADD and AND. -/
theorem and_immediateMask (w : Word) :
    w &&& 0xF020 = w.extractLsb' 12 4 ++ 0#6 ++ BitVec.ofBool (w.getLsbD 5) ++ 0#5 :=
  and_eq_of_bits fun j hj => by
    simp only [BitVec.getLsbD_append, BitVec.getLsbD_extractLsb']
    interval_cases j <;> simp

/-- The mask of the rows that bit 11 tells apart: JSR and JSRR. -/
theorem and_callMask (w : Word) : w &&& 0xF800 = w.extractLsb' 12 4 ++ BitVec.ofBool (w.getLsbD 11) ++ 0#11 :=
  and_eq_of_bits fun j hj => by
    simp only [BitVec.getLsbD_append, BitVec.getLsbD_extractLsb']
    interval_cases j <;> simp

theorem and_trapMask (w : Word) : w &&& 0xF0FF = w.extractLsb' 12 4 ++ 0#4 ++ w.extractLsb' 0 8 :=
  and_eq_of_bits fun j hj => by
    simp only [BitVec.getLsbD_append, BitVec.getLsbD_extractLsb']
    interval_cases j <;> simp

/-! ## Words of a row -/

theorem and_mask_of_matches {r : OpcodeRow} {w : Word} (h : r.matches w = true) :
    w &&& r.mask = r.pattern &&& r.mask := by
  rw [← beq_iff_eq.1 h, BitVec.and_assoc, BitVec.and_self]

/-- Every row fixes the opcode (30 R102). -/
theorem fieldOp_of_matches {w : Word} {i : Instr} (h : (rowOf i).matches w = true) :
    fieldOp w = fieldOp (rowOf i).pattern := by
  have hmask : (rowOf i).mask.extractLsb' 12 4 = BitVec.allOnes 4 := by cases i <;> dsimp only [rowOf] <;> rfl
  exact congrArg BitVec.toNat (extractLsb'_of_and_eq (and_mask_of_matches h) hmask)

/-- The instruction of the same row whose operands are the fields of w (30 R103 to R105). -/
def refill (w : Word) : Instr → Instr
  | .br _ _ => .br (fieldDr w) (fieldOff9 w)
  | .add _ _ _ => .add (fieldDr w) (fieldSr1 w) (fieldSr2 w)
  | .addi _ _ _ => .addi (fieldDr w) (fieldSr1 w) (fieldImm5 w)
  | .ld _ _ => .ld (fieldDr w) (fieldOff9 w)
  | .st _ _ => .st (fieldDr w) (fieldOff9 w)
  | .jsr _ => .jsr (fieldOff11 w)
  | .jsrr _ => .jsrr (fieldSr1 w)
  | .and _ _ _ => .and (fieldDr w) (fieldSr1 w) (fieldSr2 w)
  | .andi _ _ _ => .andi (fieldDr w) (fieldSr1 w) (fieldImm5 w)
  | .ldr _ _ _ => .ldr (fieldDr w) (fieldSr1 w) (fieldOff6 w)
  | .str _ _ _ => .str (fieldDr w) (fieldSr1 w) (fieldOff6 w)
  | .not _ _ => .not (fieldDr w) (fieldSr1 w)
  | .ldi _ _ => .ldi (fieldDr w) (fieldOff9 w)
  | .sti _ _ => .sti (fieldDr w) (fieldOff9 w)
  | .jmp _ => .jmp (fieldSr1 w)
  | .lea _ _ => .lea (fieldDr w) (fieldOff9 w)
  | .trapIllegal _ _ => .trapIllegal (w.extractLsb' 8 4) (w.extractLsb' 0 8)
  | i => i

@[simp] theorem rowOf_refill (w : Word) (i : Instr) : rowOf (refill w i) = rowOf i := by
  cases i <;> rfl

theorem wellFormed_trapIllegal_iff (x : BitVec 4) (v : Byte) :
    WellFormed (.trapIllegal x v) = true ↔ ¬ InTrapTable v := by
  rw [WellFormed, Bool.not_eq_true', decide_eq_false_iff_not]

/-- Only an illegal TRAP can be ill-formed (30 R109). -/
theorem wellFormed_of_mnemonic_ne {i : Instr} (h : (rowOf i).mnemonic ≠ "TRAP_ILLEGAL") : WellFormed i = true := by
  cases i
  case trapIllegal => exact absurd rfl h
  all_goals rfl

/-- w is a word of the row of i, the row of the illegal TRAPs being tried last: w is of that row only if its vector is
outside the trap table (30 R114). -/
structure Fits (w : Word) (i : Instr) : Prop where
  row : (rowOf i).matches w = true
  wf : WellFormed (refill w i) = true

/-! ## The decoder gives a word the row it fits -/

/-- Of a word with opcode 15 the decoder reads the trap vector (30 R107). -/
theorem decode_of_trap {w : Word} (h : fieldOp w = 15) :
    decode w = decodeTrap (w.extractLsb' 8 4) (w.extractLsb' 0 8) := by
  rw [decode, h]; rfl

theorem Fits.decode_eq {w : Word} {i : Instr} (h : Fits w i) : decode w = refill w i := by
  obtain ⟨hrow, hwf⟩ := h
  have hm := and_mask_of_matches hrow
  have hop := fieldOp_of_matches hrow
  cases i <;> dsimp only [rowOf] at hm hop
  case getc | out | puts | inEcho | putsp | halt | inu16 | outu16 | yld | brk =>
    have hvect := extractLsb'_of_and_eq (start := 0) (len := 8) hm rfl
    rw [decode_of_trap hop, hvect]; rfl
  case trapIllegal =>
    have hvect := (wellFormed_trapIllegal_iff _ _).1 hwf
    rw [decode_of_trap hop, decodeTrap, if_neg hvect]; rfl
  case add | addi | and | andi =>
    have hbit := getLsbD_of_and_eq (j := 5) hm rfl
    rw [decode, hop, hbit]; rfl
  case jsr | jsrr =>
    have hbit := getLsbD_of_and_eq (j := 11) hm rfl
    rw [decode, hop, hbit]; rfl
  all_goals rw [decode, hop]; rfl

theorem fits_decodeTrap {w : Word} (hop : w.extractLsb' 12 4 = 15#4) :
    Fits w (decodeTrap (w.extractLsb' 8 4) (w.extractLsb' 0 8)) := by
  unfold decodeTrap
  split_ifs with hv
  · have hlo : 0x20 ≤ (w.extractLsb' 0 8).toNat := hv.1
    have hhi : (w.extractLsb' 0 8).toNat < 0x20 + 10 := hv.2
    have hvect : BitVec.ofNat 8 (w.extractLsb' 0 8).toNat = w.extractLsb' 0 8 := by
      rw [BitVec.ofNat_toNat, BitVec.setWidth_eq]
    have hrow := and_trapMask w
    rw [hop, ← hvect] at hrow
    interval_cases (w.extractLsb' 0 8).toNat <;> exact ⟨beq_iff_eq.2 hrow, rfl⟩
  · have hrow := and_opcodeMask w
    rw [hop] at hrow
    exact ⟨beq_iff_eq.2 hrow, (wellFormed_trapIllegal_iff _ _).2 hv⟩

/-- Every word fits the row it decodes to. -/
theorem fits_decode (w : Word) : Fits w (decode w) := by
  have hrow := and_opcodeMask w
  have himm := and_immediateMask w
  have hcall := and_callMask w
  have hop : w.extractLsb' 12 4 = BitVec.ofNat 4 (fieldOp w) := BitVec.eq_of_toNat_eq (by simp [fieldOp])
  have hlt : fieldOp w < 16 := (w.extractLsb' 12 4).isLt
  unfold decode
  split <;> rename_i hn
  case h_2 | h_6 =>
    rw [hop, hn] at himm
    cases hbit : w.getLsbD 5 <;> rw [hbit] at himm <;> exact ⟨beq_iff_eq.2 himm, rfl⟩
  case h_5 =>
    rw [hop, hn] at hcall
    cases hbit : w.getLsbD 11 <;> rw [hbit] at hcall <;> exact ⟨beq_iff_eq.2 hcall, rfl⟩
  case h_16 =>
    have htrap : fieldOp w = 15 := by simp only [imp_false] at *; omega
    exact fits_decodeTrap (by rw [hop, htrap])
  all_goals
    rw [hop, hn] at hrow
    exact ⟨beq_iff_eq.2 hrow, rfl⟩

theorem refill_decode (w : Word) : refill w (decode w) = decode w :=
  (fits_decode w).decode_eq.symm

/-! ## The encoder -/

theorem encode_matches : ∀ i : Instr, (rowOf i).matches (encode i) = true
  | .br nzp off => Laws.EncodingMatchesRow.br nzp off
  | .add dr sr1 sr2 => Laws.EncodingMatchesRow.add dr sr1 sr2
  | .addi dr sr1 imm => Laws.EncodingMatchesRow.addi dr sr1 imm
  | .ld dr off => Laws.EncodingMatchesRow.ld dr off
  | .st sr off => Laws.EncodingMatchesRow.st sr off
  | .jsr off => Laws.EncodingMatchesRow.jsr off
  | .jsrr base => Laws.EncodingMatchesRow.jsrr base
  | .and dr sr1 sr2 => Laws.EncodingMatchesRow.and dr sr1 sr2
  | .andi dr sr1 imm => Laws.EncodingMatchesRow.andi dr sr1 imm
  | .ldr dr base off => Laws.EncodingMatchesRow.ldr dr base off
  | .str sr base off => Laws.EncodingMatchesRow.str sr base off
  | .rsv8 => Laws.EncodingMatchesRow.rsv8
  | .not dr sr1 => Laws.EncodingMatchesRow.not dr sr1
  | .ldi dr off => Laws.EncodingMatchesRow.ldi dr off
  | .sti sr off => Laws.EncodingMatchesRow.sti sr off
  | .jmp base => Laws.EncodingMatchesRow.jmp base
  | .rsv13 => Laws.EncodingMatchesRow.rsv13
  | .lea dr off => Laws.EncodingMatchesRow.lea dr off
  | .getc => Laws.EncodingMatchesRow.getc
  | .out => Laws.EncodingMatchesRow.out
  | .puts => Laws.EncodingMatchesRow.puts
  | .inEcho => Laws.EncodingMatchesRow.inEcho
  | .putsp => Laws.EncodingMatchesRow.putsp
  | .halt => Laws.EncodingMatchesRow.halt
  | .inu16 => Laws.EncodingMatchesRow.inu16
  | .outu16 => Laws.EncodingMatchesRow.outu16
  | .yld => Laws.EncodingMatchesRow.yld
  | .brk => Laws.EncodingMatchesRow.brk
  | .trapIllegal ignored vect => Laws.EncodingMatchesRow.trapIllegal ignored vect

/-- The encoder writes every operand into its field. -/
theorem refill_encode (i : Instr) : refill (encode i) i = i := by
  cases i
  case rsv8 | rsv13 | getc | out | puts | inEcho | putsp | halt | inu16 | outu16 | yld | brk => rfl
  all_goals
    simp only [refill, encode, trapWord, fieldDr, fieldSr1, fieldSr2, fieldImm5, fieldOff6, fieldOff9, fieldOff11]
    congr 1 <;>
    · apply BitVec.eq_of_getLsbD_eq
      intro j hj
      simp only [BitVec.getLsbD_extractLsb', BitVec.getLsbD_append]
      interval_cases j <;> simp

/-- Settles O1: the canonical word fits the instruction's row, and its fields are the operands. -/
theorem decodeEncodeRoundTrip : Obligations.DecodeEncodeRoundTrip := by
  intro i hwf
  have hfits : Fits (encode i) i := ⟨encode_matches i, by rwa [refill_encode]⟩
  rw [hfits.decode_eq, refill_encode]

/-- Settles O2: a word fits every row it matches but that of the illegal TRAPs, and it fits one row only. -/
theorem exactlyOneRowMatchesEveryWord : Obligations.ExactlyOneRowMatchesEveryWord := by
  refine fun w => ⟨(fits_decode w).row, fun i _ hrow hne => ?_⟩
  have hfits : Fits w i := ⟨hrow, wellFormed_of_mnemonic_ne (by rwa [rowOf_refill])⟩
  rw [hfits.decode_eq, rowOf_refill]

/-- Settles O4: a word fits the row it decodes to. -/
theorem decodedInstructionsAreWellFormed : Obligations.DecodedInstructionsAreWellFormed := by
  intro w
  have hwf := (fits_decode w).wf
  rwa [refill_decode] at hwf

/-! ## Ignored bits (30 R108) -/

theorem refill_congr {w w' : Word} {i : Instr} (h : w &&& ~~~ ignoredMask i = w' &&& ~~~ ignoredMask i) :
    refill w i = refill w' i := by
  cases i <;> dsimp only [ignoredMask] at h
  case rsv8 | rsv13 | getc | out | puts | inEcho | putsp | halt | inu16 | outu16 | yld | brk => rfl
  all_goals simp only [refill]; congr 1 <;> exact extractLsb'_of_and_eq h rfl

/-- A row looks at no ignored bit. -/
theorem not_ignoredMask_and_rowMask (i : Instr) : ~~~ ignoredMask i &&& (rowOf i).mask = (rowOf i).mask := by
  cases i <;> dsimp only [rowOf, ignoredMask] <;> rfl

theorem Fits.congr {w w' : Word} {i : Instr} (h : Fits w i)
    (hw : w &&& ~~~ ignoredMask i = w' &&& ~~~ ignoredMask i) : Fits w' i where
  row := by
    rw [OpcodeRow.matches, ← and_eq_of_submask hw (not_ignoredMask_and_rowMask i)]
    exact h.row
  wf := by
    rw [← refill_congr hw]
    exact h.wf

theorem encode_not_and_ignoredMask (dr sr1 : Reg) :
    encode (.not dr sr1) &&& ignoredMask (.not dr sr1) = 0b111111 :=
  and_eq_of_bits fun j hj => by
    dsimp only [encode, ignoredMask]
    simp only [BitVec.getLsbD_append]
    interval_cases j <;> simp

theorem encode_and_ignoredMask {i : Instr} (h : ∀ dr sr1, i ≠ .not dr sr1) : encode i &&& ignoredMask i = 0 := by
  cases i
  case not dr sr1 => exact absurd rfl (h dr sr1)
  case add | and | jsrr | jmp =>
    refine and_eq_of_bits fun j hj => ?_
    dsimp only [encode, ignoredMask]
    simp only [BitVec.getLsbD_append]
    interval_cases j <;> simp
  case rsv8 | rsv13 | getc | out | puts | inEcho | putsp | halt | inu16 | outu16 | yld | brk => rfl
  all_goals exact BitVec.and_zero

/-- Settles O3: neither the row a word fits nor the fields of that row's operands hold an ignored bit. -/
theorem ignoredBitsDoNotMatter : Obligations.IgnoredBitsDoNotMatter := by
  refine ⟨fun w w' h => ?_, fun i _ => ?_⟩
  · rw [((fits_decode w).congr h).decode_eq, ← refill_congr h, refill_decode]
  · split
    · exact encode_not_and_ignoredMask _ _
    · next hnot => exact encode_and_ignoredMask hnot

end Sys2Proof
end

section
/-! Proofs about the step: what it does in each case of the fetch (30 R101). -/

namespace Sys2Proof.Machine

theorem State.engineRuns_iff (s : State) : s.engineRuns = true ↔ s.run = true ∧ s.fault = 0 := by
  rw [State.engineRuns, Bool.and_eq_true, beq_iff_eq]

theorem step_of_not_engineRuns {s : State} (h : ¬ s.engineRuns = true) : step s = .next s := by
  rw [step, if_neg h]

theorem step_of_fetch_error {s : State} {f : Raised} (hr : s.engineRuns = true) (hf : s.fetch = .error f) :
    step s = .next (s.raise f) := by
  rw [step, if_pos hr, hf]

theorem step_of_fetch_ok {s : State} {w : Word} (hr : s.engineRuns = true) (hf : s.fetch = .ok w) :
    step s = exec (decode w) s.advance := by
  rw [step, if_pos hr, hf]

/-- Raising a fault is fault entry as 60 R266 describes it. -/
theorem faultEntry_raise (s : State) (f : Raised) : FaultEntry s f (s.raise f) where
  fault h := by
    rw [State.raise_fault, if_pos h]
    cases f.code <;> rfl
  faddr := rfl
  run := rfl
  diagOut := rfl
  regs _ := rfl
  rcnd := rfl
  rpc := rfl
  ptbr := rfl
  phase := rfl
  consoleIn := rfl
  consoleOut := rfl
  inputDraws := rfl
  memory _ := rfl

/-- Settles O40: the fetch is the read at RPC. -/
theorem stepRunsDecodedInstruction : Obligations.StepRunsDecodedInstruction := by
  intro s w i hrun hfault hread hi
  rw [step_of_fetch_ok (s.engineRuns_iff.2 ⟨hrun, hfault⟩) hread, hi]
  rfl

/-- Settles O41: the fault of the fetch is raised on the state before the increment. -/
theorem failedFetchRaisesItsFault : Obligations.FailedFetchRaisesItsFault :=
  fun s f hrun hfault hread =>
    ⟨s.raise f, step_of_fetch_error (s.engineRuns_iff.2 ⟨hrun, hfault⟩) hread, faultEntry_raise s f⟩

/-- Settles O42: the engine performs no step. -/
theorem stoppedAndFaultedMachinesStay : Obligations.StoppedAndFaultedMachinesStay := by
  refine fun s h => step_of_not_engineRuns fun hr => ?_
  obtain ⟨hrun, hfault⟩ := s.engineRuns_iff.1 hr
  exact h.elim (by simp [hrun]) (· hfault)

end Sys2Proof.Machine
end

section
/-! Proofs about the ALU instructions (spec 40): their words, and that each writes one register and the flags. -/

namespace Sys2Proof

/-! ## Words that differ from the canonical one in ignored bits -/

/-- A word that agrees with the canonical word outside the ignored bits decodes to the instruction (30 R108). -/
theorem decode_eq_of_encode_and_eq {w : Word} {i : Instr} (hwf : WellFormed i = true)
    (h : encode i &&& ~~~ ignoredMask i = w &&& ~~~ ignoredMask i) : decode w = i := by
  have hi : decode (encode i) = i := decodeEncodeRoundTrip i hwf
  have hw : decode w = decode (encode i) := ignoredBitsDoNotMatter.1 _ _ (by rwa [hi])
  rw [hw, hi]

/-- Bits 4:3 are the only ones in which two words of a register form with the same operands differ. -/
theorem registerForm_and_eq (op : BitVec 4) (dr sr1 sr2 : Reg) (x : BitVec 2) :
    (op ++ dr ++ sr1 ++ 0b000#3 ++ sr2 : BitVec 16) &&& ~~~ 0b0000000000011000 =
      (op ++ dr ++ sr1 ++ 0b0#1 ++ x ++ sr2 : BitVec 16) &&& ~~~ 0b0000000000011000 := by
  apply BitVec.eq_of_getLsbD_eq
  intro j hj
  simp only [BitVec.getLsbD_and, BitVec.getLsbD_append]
  interval_cases j <;> simp

/-- Bits 5:0 are the only ones in which two words of NOT with the same operands differ. -/
theorem notForm_and_eq (dr sr1 : Reg) (x : BitVec 6) :
    (0b1001#4 ++ dr ++ sr1 ++ 0b111111#6 : BitVec 16) &&& ~~~ 0b0000000000111111 =
      (0b1001#4 ++ dr ++ sr1 ++ x : BitVec 16) &&& ~~~ 0b0000000000111111 := by
  apply BitVec.eq_of_getLsbD_eq
  intro j hj
  simp only [BitVec.getLsbD_and, BitVec.getLsbD_append]
  interval_cases j <;> simp

end Sys2Proof

namespace Sys2Proof.Machine

/-! ## Writing a destination register -/

/-- The flags of a word by its sign as a two's-complement number (10 R27, 40 R135). -/
theorem flagsOf_eq_of_toInt (v : Word) :
    flagsOf v = if v.toInt < 0 then flagN else if v.toInt = 0 then flagZ else flagP := by
  have hneg : v.getLsbD 15 = decide (v.toInt < 0) := by
    rw [← BitVec.msb_eq_toInt, BitVec.msb_eq_getLsbD_last]
  have hzero : v = 0 ↔ v.toInt = 0 := by rw [← BitVec.toInt_inj]; rfl
  simp only [flagsOf, hneg, hzero, decide_eq_true_eq]

theorem flagsOfValue_of_rcnd_eq {v : Word} {t : State} (h : t.rcnd = flagsOf v) : FlagsOfValue v t := by
  rw [flagsOf_eq_of_toInt] at h
  refine ⟨fun hneg => ?_, fun hzero => ?_, fun hpos => ?_⟩
  · rw [h, if_pos hneg]
  · rw [h, if_neg (by omega), if_pos hzero]
  · rw [h, if_neg (by omega), if_neg (by omega)]

/-- Writing a destination register with its flags changes nothing else (10 R28). -/
theorem Defines.define (s : State) (dr : Reg) (v : Word) : Defines s dr v (s.define dr v) where
  value := by rw [State.define_reg, if_pos rfl]
  flags := flagsOfValue_of_rcnd_eq rfl
  regs i hi := by rw [State.define_reg, if_neg hi.symm]
  rpc := rfl
  control := ⟨rfl, rfl, rfl, rfl, rfl⟩
  streams := ⟨rfl, rfl, rfl, rfl⟩
  memory _ := rfl

/-- The written value may be named by any expression equal to it. -/
theorem Defines.define_of_eq (s : State) (dr : Reg) {v v' : Word} (h : v = v') : Defines s dr v' (s.define dr v) :=
  h ▸ .define s dr v

/-! ## The values the ALU computes -/

theorem add_eq_ofNat_mod (a b : Word) : a + b = BitVec.ofNat 16 ((a.toNat + b.toNat) % 65536) :=
  BitVec.eq_of_toNat_eq (by simp)

/-- Adding a sign-extended immediate adds the signed number (40 R131). -/
theorem add_sext {n : Nat} (a : Word) (imm : BitVec n) : a + sext imm = BitVec.ofInt 16 (a.toNat + imm.toInt) := by
  rw [BitVec.ofInt_add, BitVec.ofInt_natCast, BitVec.ofNat_toNat, BitVec.setWidth_eq]
  rfl

/-- Bits 15 to 5 of a sign-extended imm5 are copies of its bit 4 (00 R13). -/
theorem getLsbD_sext_imm5 (imm : BitVec 5) {j : Nat} (hj : j < 16) : (sext imm).getLsbD j = imm.getLsbD (min j 4) := by
  rw [sext, BitVec.getLsbD_signExtend, decide_eq_true hj, Bool.true_and]
  split_ifs with h
  · rw [Nat.min_eq_left (by omega)]
  · rw [Nat.min_eq_right (by omega)]
    rfl

theorem not_eq_ofNat_sub (a : Word) : ~~~a = BitVec.ofNat 16 (0xFFFF - a.toNat) :=
  BitVec.eq_of_toNat_eq (by rw [BitVec.toNat_not, BitVec.toNat_ofNat]; omega)

/-! ## The five instructions -/

/-- Settles O6: the sum of words is the sum modulo 65536. -/
theorem addWritesSumAndFlags : Obligations.AddWritesSumAndFlags :=
  ⟨fun dr sr1 sr2 x => decode_eq_of_encode_and_eq rfl (registerForm_and_eq _ dr sr1 sr2 x),
    fun dr _ _ s => ⟨_, rfl, .define_of_eq s dr (add_eq_ofNat_mod _ _)⟩⟩

/-- Settles O7: the words are canonical, and the immediate is added as a signed number. -/
theorem addImmediateWritesSumAndFlags : Obligations.AddImmediateWritesSumAndFlags :=
  ⟨fun dr sr1 imm => decodeEncodeRoundTrip (.addi dr sr1 imm) rfl,
    fun dr _ imm s => ⟨_, rfl, .define_of_eq s dr (add_sext _ imm)⟩⟩

/-- Settles O8: a bit of the conjunction is the conjunction of the bits. -/
theorem andWritesConjunctionAndFlags : Obligations.AndWritesConjunctionAndFlags :=
  ⟨fun dr sr1 sr2 x => decode_eq_of_encode_and_eq rfl (registerForm_and_eq _ dr sr1 sr2 x),
    fun dr _ _ s => ⟨_, rfl, _, fun _ _ => BitVec.getLsbD_and, .define s dr _⟩⟩

/-- Settles O9: the words are canonical, and the mask is the sign-extended immediate. -/
theorem andImmediateWritesConjunctionAndFlags : Obligations.AndImmediateWritesConjunctionAndFlags := by
  refine ⟨fun dr sr1 imm => decodeEncodeRoundTrip (.andi dr sr1 imm) rfl,
    fun dr sr1 imm s => ⟨_, rfl, s.reg sr1 &&& sext imm, fun j hj => ?_, .define s dr _⟩⟩
  rw [BitVec.getLsbD_and, getLsbD_sext_imm5 imm hj]

/-- Settles O10: the complement of a word is 0xFFFF minus it. -/
theorem notWritesComplementAndFlags : Obligations.NotWritesComplementAndFlags :=
  ⟨fun dr sr1 x => decode_eq_of_encode_and_eq rfl (notForm_and_eq dr sr1 x),
    fun dr _ s => ⟨_, rfl, .define_of_eq s dr (not_eq_ofNat_sub _)⟩⟩

end Sys2Proof.Machine
end

section
/-! Proofs about the loads, the stores and LEA (spec 41): their effective addresses, and what a load or a store does
when its access succeeds and when it faults. -/

namespace Sys2Proof.Machine

/-! ## Effective addresses: the offset is a signed number (41 R148) -/

theorem State.pcRelative_eq {n : Nat} (s : State) (off : BitVec n) :
    s.pcRelative off = s.rpc + BitVec.ofInt 16 off.toInt := rfl

theorem State.basePlus_eq (s : State) (base : Reg) (off : BitVec 6) :
    s.basePlus base off = s.reg base + BitVec.ofInt 16 off.toInt := rfl

/-! ## The end of a load and of a store (41 R149) -/

theorem finishLoad_defines {s : State} {dr : Reg} {r : Except Raised Word} {v : Word} (h : r = .ok v) :
    ∃ t, s.finishLoad dr r = .next t ∧ Defines s dr v t :=
  h ▸ ⟨_, rfl, .define s dr v⟩

theorem finishLoad_faults {s : State} {dr : Reg} {r : Except Raised Word} {f : Raised} (h : r = .error f) :
    ∃ t, s.finishLoad dr r = .next t ∧ FaultEntry s f t :=
  h ▸ ⟨_, rfl, faultEntry_raise s f⟩

theorem finishStore_faults {s : State} {r : Except Raised State} {f : Raised} (h : r = .error f) :
    ∃ t, s.finishStore r = .next t ∧ FaultEntry s f t :=
  h ▸ ⟨_, rfl, faultEntry_raise s f⟩

/-- A store whose write translates changes the one word at the physical address. -/
theorem store_storesOnly {s : State} {ea pa : Word} (v : Word) (h : s.translate .write ea = .ok pa) :
    ∃ t, s.finishStore (s.memWrite ea v) = .next t ∧ StoresOnly s pa v t := by
  rw [(s.memWrite_ok_iff _ ea v).2 ⟨pa, h, rfl⟩]
  exact ⟨_, rfl, storesOnly_setPhys s pa v⟩

theorem store_faults {s : State} {ea : Word} {f : Raised} (v : Word) (h : s.translate .write ea = .error f) :
    ∃ t, s.finishStore (s.memWrite ea v) = .next t ∧ FaultEntry s f t :=
  finishStore_faults ((s.memWrite_error_iff ea v f).2 h)

/-! ## The indirect mode: the pointer is read first (41 R142, R146) -/

theorem State.readIndirect_of_pointer {s : State} {ptr ea : Word} (h : s.memRead ptr = .ok ea) :
    s.readIndirect ptr = s.memRead ea := by
  rw [State.readIndirect, h]

theorem State.readIndirect_of_fault {s : State} {ptr : Word} {f : Raised} (h : s.memRead ptr = .error f) :
    s.readIndirect ptr = .error f := by
  rw [State.readIndirect, h]

theorem State.writeIndirect_of_pointer {s : State} {ptr ea : Word} (v : Word) (h : s.memRead ptr = .ok ea) :
    s.writeIndirect ptr v = s.memWrite ea v := by
  rw [State.writeIndirect, h]

theorem State.writeIndirect_of_fault {s : State} {ptr : Word} {f : Raised} (v : Word)
    (h : s.memRead ptr = .error f) : s.writeIndirect ptr v = .error f := by
  rw [State.writeIndirect, h]

/-! ## What `exec` does with each instruction -/

theorem exec_ld (dr : Reg) (off : BitVec 9) (s : State) :
    exec (.ld dr off) s = s.finishLoad dr (s.memRead (s.pcRelative off)) := rfl

theorem exec_ldi (dr : Reg) (off : BitVec 9) (s : State) :
    exec (.ldi dr off) s = s.finishLoad dr (s.readIndirect (s.pcRelative off)) := rfl

theorem exec_ldr (dr base : Reg) (off : BitVec 6) (s : State) :
    exec (.ldr dr base off) s = s.finishLoad dr (s.memRead (s.basePlus base off)) := rfl

theorem exec_st (sr : Reg) (off : BitVec 9) (s : State) :
    exec (.st sr off) s = s.finishStore (s.memWrite (s.pcRelative off) (s.reg sr)) := rfl

theorem exec_sti (sr : Reg) (off : BitVec 9) (s : State) :
    exec (.sti sr off) s = s.finishStore (s.writeIndirect (s.pcRelative off) (s.reg sr)) := rfl

theorem exec_str (sr base : Reg) (off : BitVec 6) (s : State) :
    exec (.str sr base off) s = s.finishStore (s.memWrite (s.basePlus base off) (s.reg sr)) := rfl

/-! ## The seven instructions -/

/-- Settles O13: the words are canonical, and the read decides between the load and its fault. -/
theorem ldLoadsPcRelativeOrFaults : Obligations.LdLoadsPcRelativeOrFaults := by
  refine ⟨fun dr off => decodeEncodeRoundTrip (.ld dr off) rfl, fun dr off s ea hea => ?_⟩
  rw [exec_ld, s.pcRelative_eq, ← hea]
  exact ⟨fun _ => finishLoad_defines, fun _ => finishLoad_faults⟩

/-- Settles O14: with the pointer read, the second read decides; a pointer that cannot be read ends the load. -/
theorem ldiLoadsThroughPointerOrFaults : Obligations.LdiLoadsThroughPointerOrFaults := by
  refine ⟨fun dr off => decodeEncodeRoundTrip (.ldi dr off) rfl, fun dr off s pa hpa => ?_⟩
  rw [exec_ldi, s.pcRelative_eq, ← hpa]
  refine ⟨fun ea v hptr hread => ?_, fun f hptr => ?_, fun ea f hptr hread => ?_⟩
  · exact finishLoad_defines ((State.readIndirect_of_pointer hptr).trans hread)
  · exact finishLoad_faults (State.readIndirect_of_fault hptr)
  · exact finishLoad_faults ((State.readIndirect_of_pointer hptr).trans hread)

/-- Settles O15: the address is computed from the state before DR is written. -/
theorem ldrLoadsBasePlusOffsetOrFaults : Obligations.LdrLoadsBasePlusOffsetOrFaults := by
  refine ⟨fun dr base off => decodeEncodeRoundTrip (.ldr dr base off) rfl, fun dr base off s ea hea => ?_⟩
  rw [exec_ldr, s.basePlus_eq, ← hea]
  exact ⟨fun _ => finishLoad_defines, fun _ => finishLoad_faults⟩

/-- Settles O16: LEA writes its effective address and reads no memory. -/
theorem leaWritesAddressAndFlags : Obligations.LeaWritesAddressAndFlags :=
  ⟨fun dr off => decodeEncodeRoundTrip (.lea dr off) rfl,
    fun dr off s => ⟨_, rfl, .define_of_eq s dr (s.pcRelative_eq off)⟩⟩

/-- Settles O17: the translation of the write decides between the store and its fault. -/
theorem stStoresPcRelativeOrFaults : Obligations.StStoresPcRelativeOrFaults := by
  refine ⟨fun sr off => decodeEncodeRoundTrip (.st sr off) rfl, fun sr off s ea hea => ?_⟩
  rw [exec_st, s.pcRelative_eq, ← hea]
  exact ⟨fun _ => store_storesOnly _, fun _ => store_faults _⟩

/-- Settles O18: with the pointer read, the write decides; a pointer that cannot be read ends the store. -/
theorem stiStoresThroughPointerOrFaults : Obligations.StiStoresThroughPointerOrFaults := by
  refine ⟨fun sr off => decodeEncodeRoundTrip (.sti sr off) rfl, fun sr off s ptr hptr => ?_⟩
  rw [exec_sti, s.pcRelative_eq, ← hptr]
  refine ⟨fun ea pa hread hwrite => ?_, fun f hread => ?_, fun ea f hread hwrite => ?_⟩
  · rw [State.writeIndirect_of_pointer _ hread]
    exact store_storesOnly _ hwrite
  · exact finishStore_faults (State.writeIndirect_of_fault _ hread)
  · rw [State.writeIndirect_of_pointer _ hread]
    exact store_faults _ hwrite

/-- Settles O19: the address and the value are both taken from the state before the store. -/
theorem strStoresBasePlusOffsetOrFaults : Obligations.StrStoresBasePlusOffsetOrFaults := by
  refine ⟨fun sr base off => decodeEncodeRoundTrip (.str sr base off) rfl, fun sr base off s ea hea => ?_⟩
  rw [exec_str, s.basePlus_eq, ← hea]
  exact ⟨fun _ => store_storesOnly _, fun _ => store_faults _⟩

end Sys2Proof.Machine
end

section
/-! Proofs about the branch, the jumps, the calls and the reserved opcodes (spec 42): their words, and that each writes
RPC, the link register or nothing. -/

namespace Sys2Proof

/-! ## Words whose ignored fields differ -/

/-- A field that the mask leaves out may hold anything. -/
theorem append_and_append_zero {k n : Nat} (a m : BitVec k) (x y : BitVec n) :
    (a ++ x) &&& (m ++ 0#n) = (a ++ y) &&& (m ++ 0#n) := by
  simp only [BitVec.and_append, BitVec.and_zero]

/-- Two words of a form that names only BaseR agree outside the ignored bits m if their top seven bits do. -/
theorem baseForm_and_eq (m : BitVec (7 + 3 + 6)) {a b k : BitVec 7} (hm : ~~~ m = k ++ 0b111#3 ++ 0b000000#6)
    (h : a &&& k = b &&& k) (base : Reg) (y : BitVec 6) :
    (a ++ base ++ 0b000000#6 : BitVec 16) &&& ~~~ m = (b ++ base ++ y : BitVec 16) &&& ~~~ m := by
  rw [hm]
  simp only [BitVec.and_append, BitVec.and_zero, h]

/-- The three mask bits of BR are one field (42 R160). -/
theorem branchForm_eq (n z p : BitVec 1) (off : BitVec 9) :
    (0b0000#4 ++ n ++ z ++ p ++ off : BitVec 16) = 0b0000#4 ++ (n ++ z ++ p : BitVec 3) ++ off := by
  have hmask : (0b0000#4 ++ n ++ z ++ p : BitVec 7) = 0b0000#4 ++ (n ++ z ++ p : BitVec 3) := by
    rw [BitVec.append_assoc' (x₁ := 0b0000#4), BitVec.append_assoc' (x₁ := 0b0000#4)]
    rfl
  rw [hmask]

end Sys2Proof

namespace Sys2Proof.Machine

/-! ## Moving RPC, with or without a link -/

theorem JumpsOnly.setRpc (s : State) (target : Word) : JumpsOnly s target (s.setRpc target) where
  rpc := rfl
  regs _ := rfl
  rcnd := rfl
  control := ⟨rfl, rfl, rfl, rfl, rfl⟩
  streams := ⟨rfl, rfl, rfl, rfl⟩
  memory _ := rfl

/-- Going on is a jump to RPC itself. -/
theorem JumpsOnly.refl (s : State) : JumpsOnly s s.rpc s := .setRpc s s.rpc

theorem CallsOnly.setReg_setRpc (s : State) (target : Word) :
    CallsOnly s target ((s.setReg linkReg s.rpc).setRpc target) where
  rpc := rfl
  link := s.setReg_reg_same linkReg s.rpc
  regs i hi := by rw [State.setRpc_reg, State.setReg_reg, if_neg (Ne.symm hi)]
  rcnd := rfl
  control := ⟨rfl, rfl, rfl, rfl, rfl⟩
  streams := ⟨rfl, rfl, rfl, rfl⟩
  memory _ := rfl

/-! ## The branch condition (42 R160) -/

/-- The conjunction of mask and flags is not 0 if some bit is set in both. -/
theorem State.branchTaken_eq (s : State) (nzp : BitVec 3) :
    s.branchTaken nzp = ((nzp.getLsbD 2 && s.rcnd.getLsbD 2) || (nzp.getLsbD 1 && s.rcnd.getLsbD 1) ||
      (nzp.getLsbD 0 && s.rcnd.getLsbD 0)) := by
  have hbits : ∀ m f : BitVec 3, (m &&& f != 0) = ((m.getLsbD 2 && f.getLsbD 2) || (m.getLsbD 1 && f.getLsbD 1) ||
      (m.getLsbD 0 && f.getLsbD 0)) := by decide
  exact hbits nzp s.rcnd

theorem State.branchTaken_zero (s : State) : s.branchTaken 0b000 = false := by
  rw [State.branchTaken, bne_eq_false_iff_eq]
  exact BitVec.zero_and

theorem State.OneFlag.branchTaken_allOnes {s : State} (h : s.OneFlag) : s.branchTaken 0b111 = true := by
  obtain h | h | h := h <;> rw [State.branchTaken, h] <;> rfl

/-! ## What `exec` does with each instruction -/

theorem exec_br_of_taken {nzp : BitVec 3} {s : State} (off : BitVec 9) (h : s.branchTaken nzp = true) :
    exec (.br nzp off) s = .next (s.setRpc (s.pcRelative off)) :=
  congrArg Host.Outcome.next (if_pos h)

theorem exec_br_of_not_taken {nzp : BitVec 3} {s : State} (off : BitVec 9) (h : s.branchTaken nzp = false) :
    exec (.br nzp off) s = .next s :=
  congrArg Host.Outcome.next (if_neg (Bool.eq_false_iff.1 h))

theorem exec_jmp (base : Reg) (s : State) : exec (.jmp base) s = .next (s.setRpc (s.reg base)) := rfl

theorem exec_jsr (off : BitVec 11) (s : State) :
    exec (.jsr off) s = .next ((s.setReg linkReg s.rpc).setRpc (s.pcRelative off)) := rfl

/-- Under JSRR_READS_BASE_FIRST the target is read from the state before the link is written (42 R163, log 4). -/
theorem exec_jsrr (base : Reg) (s : State) :
    exec (.jsrr base) s = .next ((s.setReg linkReg s.rpc).setRpc (s.reg base)) := rfl

/-- Under RESERVED_OPCODE_IS_NOP a reserved opcode is executed and does nothing (30 R110, log 4). -/
theorem State.reservedOpcode_eq (s : State) : s.reservedOpcode = .next s := if_pos config_reservedOpcodeIsNop

/-! ## The five statements -/

/-- Settles O20: the words are canonical, and the branch condition decides between the jump and going on. -/
theorem brBranchesOnMaskedFlag : Obligations.BrBranchesOnMaskedFlag := by
  refine ⟨fun n z p off => ?_, fun nzp off s => ?_⟩
  · rw [branchForm_eq]
    exact decodeEncodeRoundTrip (.br (n ++ z ++ p) off) rfl
  · rw [← s.branchTaken_eq]
    cases htaken : s.branchTaken nzp with
    | true =>
      refine ⟨_, exec_br_of_taken off htaken, .setRpc s _, fun hmask => ?_, fun _ _ => rfl⟩
      rw [hmask, s.branchTaken_zero] at htaken
      cases htaken
    | false =>
      refine ⟨_, exec_br_of_not_taken off htaken, .refl s, fun _ => rfl, fun hmask hone => ?_⟩
      rw [hmask, hone.branchTaken_allOnes] at htaken
      cases htaken

/-- Settles O21: only BaseR of the word matters, and RPC gets that register. -/
theorem jmpGoesToBaseRegister : Obligations.JmpGoesToBaseRegister :=
  ⟨fun x base y => decode_eq_of_encode_and_eq rfl
      (baseForm_and_eq 0b0000111000111111 rfl (append_and_append_zero 0b1100#4 0b1111#4 0b000#3 x) base y),
    decodeEncodeRoundTrip (.jmp 7) rfl,
    fun base s => ⟨_, exec_jmp base s, .setRpc s _⟩⟩

/-- Settles O22: the words are canonical, and the target is relative to the RPC that is saved. -/
theorem jsrSavesReturnAddressAndJumps : Obligations.JsrSavesReturnAddressAndJumps :=
  ⟨fun off => decodeEncodeRoundTrip (.jsr off) rfl,
    fun off s => ⟨_, exec_jsr off s, s.pcRelative_eq off ▸ .setReg_setRpc s _⟩⟩

/-- Settles O23: only BaseR of the word matters, and it is read from the state before the link. -/
theorem jsrrReadsBaseBeforeLink : Obligations.JsrrReadsBaseBeforeLink :=
  ⟨fun x base y => decode_eq_of_encode_and_eq rfl
      (baseForm_and_eq 0b0000011000111111 rfl (append_and_append_zero 0b01000#5 0b11111#5 0b00#2 x) base y),
    fun base s => ⟨_, exec_jsrr base s, .setReg_setRpc s _⟩⟩

/-- Settles O24: bits 11:0 of a reserved word are ignored, and both opcodes share one meaning. -/
theorem reservedOpcodesChangeNothing : Obligations.ReservedOpcodesChangeNothing :=
  ⟨fun x => decode_eq_of_encode_and_eq rfl (append_and_append_zero 0b1000#4 0b1111#4 0#12 x),
    fun x => decode_eq_of_encode_and_eq rfl (append_and_append_zero 0b1101#4 0b1111#4 0#12 x),
    fun s => ⟨s.reservedOpcode_eq, s.reservedOpcode_eq⟩⟩

end Sys2Proof.Machine
end

section
/-! Proofs about the console and the TRAP words (spec 43): which TRAP words there are, what a console read and a console
write change, the walk of PUTS and the decimal text of OUTU16. -/

namespace Sys2Proof

/-! ## TRAP words (30 R107 to R109) -/

theorem fieldOp_of_matches_trapIllegal {w : Word} {x : BitVec 4} {v : Byte}
    (h : (rowOf (.trapIllegal x v)).matches w = true) : fieldOp w = 15 :=
  (fieldOp_of_matches h).trans (show fieldOp 0xF000 = 15 by decide)

/-- Bits 11:8 of a TRAP word do not select the routine. -/
theorem decode_trapWord (x : BitVec 4) (v : Byte) : decode (0b1111#4 ++ x ++ v : BitVec 16) = decodeTrap x v := by
  have hop : fieldOp (trapWord x v) = 15 := fieldOp_of_matches_trapIllegal (encode_matches (.trapIllegal x v))
  obtain ⟨hignored, hvect⟩ := Instr.trapIllegal.inj (refill_encode (.trapIllegal x v))
  exact (decode_of_trap hop).trans (congrArg₂ decodeTrap hignored hvect)

theorem decodeTrap_of_not_inTrapTable {v : Byte} (x : BitVec 4) (h : ¬ InTrapTable v) :
    decodeTrap x v = .trapIllegal x v :=
  if_neg h

/-- The vectors outside the trap table, as numbers (43 R181). -/
theorem not_inTrapTable_iff (v : Byte) : ¬ InTrapTable v ↔ v.toNat < 0x20 ∨ 0x29 < v.toNat := by
  have htable : InTrapTable v ↔ 0x20 ≤ v.toNat ∧ v.toNat < 0x20 + 10 := Iff.rfl
  rw [htable]
  omega

theorem fieldOp_eq_div (w : Word) : fieldOp w = w.toNat / 4096 := by
  have := w.isLt
  rw [fieldOp, BitVec.extractLsb'_toNat, Nat.shiftRight_eq_div_pow]
  omega

theorem vector_toNat (w : Word) : (w.extractLsb' 0 8).toNat = w.toNat % 256 := by
  rw [BitVec.extractLsb'_toNat, Nat.shiftRight_zero]

/-- The words of the illegal TRAPs, by their fields. -/
theorem decode_eq_trapIllegal_iff (w : Word) :
    (∃ x v, decode w = .trapIllegal x v) ↔ fieldOp w = 15 ∧ ¬ InTrapTable (w.extractLsb' 0 8) := by
  constructor
  · rintro ⟨x, v, h⟩
    have hfits := fits_decode w
    rw [h] at hfits
    exact ⟨fieldOp_of_matches_trapIllegal hfits.row, (wellFormed_trapIllegal_iff _ _).1 hfits.wf⟩
  · rintro ⟨hop, hvect⟩
    exact ⟨_, _, (decode_of_trap hop).trans (decodeTrap_of_not_inTrapTable _ hvect)⟩

end Sys2Proof

namespace Sys2Proof.Machine

/-- Settles O25: the decoder tells the illegal TRAPs by opcode and vector, and the fault holds the whole word. -/
theorem trapOutsideTableRaisesIllegalTrap : Obligations.TrapOutsideTableRaisesIllegalTrap := by
  refine ⟨fun w => ?_, fun x v hv => ?_, fun x v s => ⟨_, rfl, faultEntry_raise s _⟩⟩
  · rw [decode_eq_trapIllegal_iff, not_inTrapTable_iff, fieldOp_eq_div, vector_toNat]
  · rw [decode_trapWord, decodeTrap_of_not_inTrapTable x ((not_inTrapTable_iff v).2 hv)]

/-! ## Writing to the console (43 R171) -/

theorem charOf_eq (w : Word) : charOf w = BitVec.ofNat 8 (w.toNat % 256) :=
  BitVec.eq_of_toNat_eq (by simp [charOf])

theorem PrintsOnly.emit (s : State) (cs : List Byte) : PrintsOnly s cs (s.emit cs) where
  consoleOut := rfl
  regs _ := rfl
  rcnd := rfl
  rpc := rfl
  control := ⟨rfl, rfl, rfl, rfl, rfl⟩
  consoleIn := rfl
  diagOut := rfl
  inputDraws := rfl
  memory _ := rfl

/-- Settles O30: the character of a word is its low byte. -/
theorem outAppendsLowByte : Obligations.OutAppendsLowByte :=
  ⟨fun x => decode_trapWord x 0x21, fun s => ⟨_, rfl, charOf_eq (s.reg 0) ▸ .emit s _⟩⟩

/-- Settles O32: PUTSP is executed and does nothing. -/
theorem putspChangesNothing : Obligations.PutspChangesNothing :=
  ⟨fun x => decode_trapWord x 0x24, fun _ => rfl⟩

/-! ## Reading from the console (43 R171, R172, R177) -/

theorem State.conIn_of_cons {s : State} {w : Word} {rest : List Word} (h : s.consoleIn = w :: rest) :
    s.conIn = (w, { s with consoleIn := rest, inputDraws := s.inputDraws }) := by
  rw [State.conIn, h]

/-- The free value of this draw is taken (log 5, 6). -/
theorem State.conIn_of_nil {s : State} (h : s.consoleIn = []) :
    s.conIn = (awaitedItem s.inputDraws, { s with consoleIn := [], inputDraws := s.inputDraws + 1 }) := by
  rw [State.conIn, h]

/-- Characters written after a read without echo are the echo. -/
theorem TakesInput.emit {s t : State} {w : Word} {rest : List Word} {draws : Nat}
    (h : TakesInput s w rest draws [] t) (cs : List Byte) : TakesInput s w rest draws cs (t.emit cs) where
  value := h.value
  consoleIn := h.consoleIn
  inputDraws := h.inputDraws
  consoleOut := by rw [State.emit_consoleOut, h.consoleOut, List.append_nil]
  regs := h.regs
  rcnd := h.rcnd
  rpc := h.rpc
  control := ⟨h.control.ptbr, h.control.run, h.control.fault, h.control.faddr, h.control.phase⟩
  diagOut := h.diagOut
  memory := h.memory

section
variable {s : State} {w : Word} {rest : List Word} {draws : Nat}
  (h : s.conIn = (w, { s with consoleIn := rest, inputDraws := draws }))
include h

/-- A read without echo: GETC and INU16. -/
theorem TakesInput.conIn : TakesInput s w rest draws [] (s.conIn.2.setReg trapReg s.conIn.1) := by
  rw [h]
  exact {
    value := State.setReg_reg_same _ trapReg w
    consoleIn := rfl
    inputDraws := rfl
    consoleOut := (List.append_nil _).symm
    regs := fun i hi => by rw [State.setReg_reg, if_neg hi.symm]; rfl
    rcnd := rfl
    rpc := rfl
    control := ⟨rfl, rfl, rfl, rfl, rfl⟩
    diagOut := rfl
    memory := fun _ => rfl }

/-- A read with echo: IN. -/
theorem TakesInput.conIn_conOut : TakesInput s w rest draws [BitVec.ofNat 8 (w.toNat % 256)]
    ((s.conIn.2.setReg trapReg s.conIn.1).conOut s.conIn.1) := by
  have hchar : charOf s.conIn.1 = BitVec.ofNat 8 (w.toNat % 256) := by rw [h, charOf_eq]
  rw [State.conOut, hchar]
  exact (TakesInput.conIn h).emit _

end

/-- Settles O26: the read takes the waiting item. -/
theorem getcTakesNextItem : Obligations.GetcTakesNextItem :=
  ⟨fun x => decode_trapWord x 0x20, fun _ _ _ h => ⟨_, rfl, .conIn (State.conIn_of_cons h)⟩⟩

/-- Settles O27: the read takes the waiting item, and the same item is echoed. -/
theorem inTakesNextItemAndEchoes : Obligations.InTakesNextItemAndEchoes :=
  ⟨fun x => decode_trapWord x 0x23, fun _ _ _ h => ⟨_, rfl, .conIn_conOut (State.conIn_of_cons h)⟩⟩

/-- Settles O28: the read takes the waiting item. -/
theorem inu16TakesNextItem : Obligations.Inu16TakesNextItem :=
  ⟨fun x => decode_trapWord x 0x26, fun _ _ _ h => ⟨_, rfl, .conIn (State.conIn_of_cons h)⟩⟩

/-- Settles O29: the same reads, with the free value as the item. -/
theorem blockedInputTakesAwaitedItem : Obligations.BlockedInputTakesAwaitedItem := by
  intro s hempty
  have h := State.conIn_of_nil hempty
  exact ⟨⟨_, rfl, .conIn h⟩, ⟨_, rfl, .conIn_conOut h⟩, ⟨_, rfl, .conIn h⟩⟩

/-! ## The decimal text of OUTU16 (43 R172, log 7) -/

theorem mem_of_mem_trimZeros {d : Nat} {ds : List Nat} (h : d ∈ trimZeros ds) : d ∈ ds := by
  fun_induction trimZeros ds with
  | case1 => exact h
  | case2 => exact h
  | case3 ds _ ih => exact List.mem_cons_of_mem _ (ih h)
  | case4 => exact h

theorem trimZeros_ne_nil {ds : List Nat} (h : ds ≠ []) : trimZeros ds ≠ [] := by
  fun_induction trimZeros ds with
  | case1 => exact h
  | case2 => exact h
  | case3 ds hne ih => exact ih hne
  | case4 => exact h

/-- Only the number 0 begins with the digit 0. -/
theorem trimZeros_eq_of_head_eq_zero {ds : List Nat} (h : (trimZeros ds).head? = some 0) : trimZeros ds = [0] := by
  fun_induction trimZeros ds with
  | case1 => cases h
  | case2 => rw [Option.some.inj h]
  | case3 ds _ ih => exact ih h
  | case4 d ds _ hd => exact absurd (Option.some.inj h) hd

/-- Leading zeros do not count. -/
theorem ofDigits_reverse_trimZeros (ds : List Nat) :
    Nat.ofDigits 10 (trimZeros ds).reverse = Nat.ofDigits 10 ds.reverse := by
  fun_induction trimZeros ds with
  | case1 => rfl
  | case2 => rfl
  | case3 ds _ ih => rw [ih, List.reverse_cons, Nat.ofDigits_append_zero]
  | case4 => rfl

theorem lt_ten_of_mem_fiveDigits {v : Word} {d : Nat} (h : d ∈ fiveDigits v) : d < 10 := by
  simp only [fiveDigits, List.mem_cons, List.not_mem_nil, or_false] at h
  omega

theorem ofDigits_reverse_fiveDigits (v : Word) : Nat.ofDigits 10 (fiveDigits v).reverse = v.toNat := by
  have := v.isLt
  simp only [fiveDigits, List.reverse_cons, List.reverse_nil, List.nil_append, List.cons_append, Nat.ofDigits_cons,
    Nat.ofDigits_nil]
  omega

/-- Settles O31: a word has at most five digits, and dropping leading zeros keeps the number. -/
theorem outu16AppendsDecimalText : Obligations.Outu16AppendsDecimalText := by
  refine ⟨fun x => decode_trapWord x 0x27, fun s =>
    ⟨_, trimZeros (fiveDigits (s.reg 0)), rfl, .emit s _, fun d hd => ?_, ?_, ?_, trimZeros_eq_of_head_eq_zero⟩⟩
  · exact lt_ten_of_mem_fiveDigits (mem_of_mem_trimZeros hd)
  · rw [ofDigits_reverse_trimZeros, ofDigits_reverse_fiveDigits]
  · exact trimZeros_ne_nil (List.cons_ne_nil _ _)

/-! ## The walk of PUTS (43 R175) -/

/-- A word that can be read lies above the three reserved pages (20 R72). -/
theorem State.le_of_memRead_ok {s : State} {a w : Word} (h : s.memRead a = .ok w) : 0x1800 ≤ a.toNat := by
  obtain ⟨pa, hpa, -⟩ := (s.memRead_ok_iff a w).1 h
  have hpage := ((s.translate_ok_iff .read a pa).1 hpa).1
  rw [← Bool.not_eq_true, isReservedPage_iff, vpnOf_toNat] at hpage
  omega

theorem State.memRead_zero (s : State) : s.memRead 0 = .error ⟨.segFault, 0⟩ := rfl

theorem State.stringWalk_of_error {s : State} {a : Word} {f : Raised} (n : Nat) (h : s.memRead a = .error f) :
    s.stringWalk (n + 1) a = ([], some f) := by
  rw [State.stringWalk, h]

theorem State.stringWalk_of_null {s : State} {a : Word} (n : Nat) (h : s.memRead a = .ok 0) :
    s.stringWalk (n + 1) a = ([], none) := by
  rw [State.stringWalk, h]
  exact if_pos rfl

theorem State.stringWalk_of_char {s : State} {a w : Word} (n : Nat) (h : s.memRead a = .ok w) (hw : w ≠ 0) :
    s.stringWalk (n + 1) a = (charOf w :: (s.stringWalk n (a + 1)).1, (s.stringWalk n (a + 1)).2) := by
  rw [State.stringWalk, h]
  exact if_neg hw

theorem stringFuel_pos (a : Word) : ∃ n, stringFuel a = n + 1 :=
  ⟨65535 - a.toNat, by have := a.isLt; unfold stringFuel; omega⟩

theorem State.stringAt_of_error {s : State} {a : Word} {f : Raised} (h : s.memRead a = .error f) :
    s.stringAt a = ([], some f) := by
  obtain ⟨n, hn⟩ := stringFuel_pos a
  rw [State.stringAt, hn, State.stringWalk_of_error n h]

theorem State.stringAt_of_null {s : State} {a : Word} (h : s.memRead a = .ok 0) : s.stringAt a = ([], none) := by
  obtain ⟨n, hn⟩ := stringFuel_pos a
  rw [State.stringAt, hn, State.stringWalk_of_null n h]

/-- The walk goes on at the next address, and the wrap to 0x0000 ends it as the read there does. -/
theorem State.stringAt_of_char {s : State} {a w : Word} (h : s.memRead a = .ok w) (hw : w ≠ 0) :
    s.stringAt a = (charOf w :: (s.stringAt (a + 1)).1, (s.stringAt (a + 1)).2) := by
  obtain ⟨n, hn⟩ := stringFuel_pos a
  have hrest : s.stringWalk n (a + 1) = s.stringAt (a + 1) := by
    by_cases hwrap : a + 1 = 0
    · have hn0 : n = 0 := by unfold stringFuel at hn; bv_omega
      rw [hwrap, hn0, State.stringAt_of_error s.memRead_zero]
      rfl
    · have hnext : stringFuel (a + 1) = n := by unfold stringFuel at *; bv_omega
      rw [State.stringAt, hnext]
  rw [State.stringAt, hn, State.stringWalk_of_char n h hw, hrest]

/-! ## The string at an address, as a list of words -/

/-- The words from an address on are readable and not null, as the statement about PUTS says it. -/
def Spells (s : State) (a : Word) (ws : List Word) : Prop :=
  ∀ k w, ws[k]? = some w → w ≠ 0 ∧ s.memRead (a + BitVec.ofNat 16 k) = .ok w

theorem Spells.nil (s : State) (a : Word) : Spells s a [] := fun _ _ h => by cases h

theorem add_ofNat_succ (a : Word) (k : Nat) : a + BitVec.ofNat 16 (k + 1) = a + 1 + BitVec.ofNat 16 k := by
  bv_omega

theorem spells_cons_iff {s : State} {a w : Word} {ws : List Word} :
    Spells s a (w :: ws) ↔ (w ≠ 0 ∧ s.memRead a = .ok w) ∧ Spells s (a + 1) ws := by
  constructor
  · refine fun h => ⟨?_, fun k v hv => ?_⟩
    · simpa using h 0 w rfl
    · rw [← add_ofNat_succ]
      exact h (k + 1) v hv
  · rintro ⟨hw, hws⟩ (_ | k) v hv
    · cases hv
      simpa using hw
    · rw [add_ofNat_succ]
      exact hws k v hv

/-- The walk writes the words that are spelled and goes on behind them. -/
theorem Spells.stringAt_eq {s : State} {a : Word} {ws : List Word} (h : Spells s a ws) :
    s.stringAt a = (ws.map charOf ++ (s.stringAt (a + BitVec.ofNat 16 ws.length)).1,
      (s.stringAt (a + BitVec.ofNat 16 ws.length)).2) := by
  induction ws generalizing a with
  | nil => simp
  | cons w ws ih =>
    obtain ⟨⟨hw, hread⟩, hws⟩ := spells_cons_iff.1 h
    rw [State.stringAt_of_char hread hw, ih hws, List.length_cons, add_ofNat_succ]
    rfl

/-- No string spans address 0x0000, nor begins on a reserved page. -/
theorem Spells.length_le {s : State} {a : Word} {ws : List Word} (h : Spells s a ws) : ws.length ≤ 59392 := by
  by_contra hlong
  have hread (k : Nat) (hk : k < ws.length) : 0x1800 ≤ (a + BitVec.ofNat 16 k).toNat :=
    State.le_of_memRead_ok (h k ws[k] (List.getElem?_eq_getElem hk)).2
  have hstart := hread 0 (by omega)
  have hwrap := hread (65536 - a.toNat) (by bv_omega)
  bv_omega

/-- A walk that is n words before the wrap to 0x0000 ends at a null word or at a fault, there at the latest. -/
theorem exists_spells (s : State) (n : Nat) : ∀ a : Word, a + BitVec.ofNat 16 n = 0 → ∃ ws, Spells s a ws ∧
    (s.memRead (a + BitVec.ofNat 16 ws.length) = .ok 0 ∨
      ∃ f, s.memRead (a + BitVec.ofNat 16 ws.length) = .error f) := by
  induction n with
  | zero =>
    intro a ha
    exact ⟨[], .nil s a, .inr ⟨_, ha ▸ s.memRead_zero⟩⟩
  | succ n ih =>
    intro a ha
    cases hread : s.memRead a with
    | error f => exact ⟨[], .nil s a, .inr ⟨f, by simpa using hread⟩⟩
    | ok w =>
      by_cases hw : w = 0
      · exact ⟨[], .nil s a, .inl (by simpa [hw] using hread)⟩
      · rw [add_ofNat_succ] at ha
        obtain ⟨ws, hws, hend⟩ := ih (a + 1) ha
        refine ⟨w :: ws, spells_cons_iff.2 ⟨⟨hw, hread⟩, hws⟩, ?_⟩
        rwa [List.length_cons, add_ofNat_succ]

/-! ## PUTS -/

theorem exec_puts_of_null {s : State} {cs : List Byte} (h : s.stringAt (s.reg trapReg) = (cs, none)) :
    exec .puts s = .next (s.emit cs) := by
  rw [exec, execPuts, h]

theorem exec_puts_of_fault {s : State} {cs : List Byte} {f : Raised}
    (h : s.stringAt (s.reg trapReg) = (cs, some f)) : exec .puts s = .next ((s.emit cs).raise f) := by
  rw [exec, execPuts, h]

/-- Settles O33: the words before the end are written, and the read at the end decides how the walk ends. -/
theorem putsWritesStringOrFaults : Obligations.PutsWritesStringOrFaults := by
  refine ⟨fun x => decode_trapWord x 0x22, fun s ws (hws : Spells s (s.reg 0) ws) => ?_, fun s => ?_⟩
  · rw [← funext charOf_eq]
    have hwalk := hws.stringAt_eq
    refine ⟨fun hnull => ?_, fun f hfault => ?_⟩
    · rw [State.stringAt_of_null hnull, List.append_nil] at hwalk
      exact ⟨_, exec_puts_of_null hwalk, .emit s _⟩
    · rw [State.stringAt_of_error hfault, List.append_nil] at hwalk
      exact ⟨_, _, exec_puts_of_fault hwalk, .emit s _, faultEntry_raise _ f⟩
  · have hwrap : s.reg 0 + BitVec.ofNat 16 (-s.reg 0).toNat = 0 := by
      rw [BitVec.ofNat_toNat, BitVec.setWidth_eq]
      exact BitVec.add_right_neg _
    obtain ⟨ws, hws, hend⟩ := exists_spells s _ _ hwrap
    exact ⟨ws, hws.length_le, hws, hend⟩

end Sys2Proof.Machine
end

section
/-! Proofs that every instruction answers a next state: a load, a store and PUTS in a fault too, YLD and HALT where
their scan is defined. -/

namespace Sys2Proof.Machine

/-- The execution answers a next state. -/
abbrev Completes (r : Result) : Prop := ∃ t, r = .next t

theorem completes_finishLoad (s : State) (dr : Reg) (r : Except Raised Word) : Completes (s.finishLoad dr r) := by
  cases r <;> exact ⟨_, rfl⟩

theorem completes_finishStore (s : State) (r : Except Raised State) : Completes (s.finishStore r) := by
  cases r <;> exact ⟨_, rfl⟩

theorem completes_reservedOpcode (s : State) : Completes s.reservedOpcode := ⟨s, s.reservedOpcode_eq⟩

/-- PUTS ends at a null word or at a fault. -/
theorem completes_puts (s : State) : Completes (exec .puts s) := by
  rcases h : s.stringAt (s.reg trapReg) with ⟨cs, _ | f⟩
  · exact ⟨_, exec_puts_of_null h⟩
  · exact ⟨_, exec_puts_of_fault h⟩

/-! ## The scans of YLD and HALT (47 R241) -/

/-- A scan is defined where `PROC_COUNT` is what it was in a state with a process. -/
theorem scanDefined_of_phys_one_eq {s t : State} (h : t.phys 1 = s.phys 1) (hcount : 0 < s.count) :
    t.scanDefined = true := by
  refine bne_iff_ne.2 fun hzero => ?_
  have hone : s.phys 1 = 0 := h.symm.trans hzero
  rw [State.count, hone] at hcount
  exact absurd hcount (by decide)

/-- Frees in the table of a pid and the write of a pid word leave the three words before the bitmap alone. -/
theorem phys_terminate_lt_three {s : State} {p a : Word} (hcur : (Mem.curPid s.mem).toNat < 64) (hp : p.toNat < 64)
    (hptbr : s.ptbr = ptbrOf p) (ha : a.toNat < 3) : s.terminate.phys a = s.phys a := by
  rw [State.terminate, hptbr, State.setMem_phys, Mem.phys_setPhys,
    if_neg (pcbAddr_ne hcur (by decide) (.inl (by omega))).symm]
  exact (freePages_tableOnly (List.Subset.refl pages) s.mem).phys_lt_three hp ha

theorem completes_yld {s : State} (hcur : (s.phys 0).toNat < s.count) (hcount : s.count ≤ 64) :
    Completes (exec .yld s) := by
  have hsaved : (s.save (Mem.curPid s.mem)).phys 1 = s.phys 1 :=
    phys_save (lt_of_lt_of_le hcur hcount) (.inl (by decide))
  exact ⟨_, if_pos (scanDefined_of_phys_one_eq hsaved (by omega))⟩

theorem completes_halt {s : State} {p : Word} (hcur : (s.phys 0).toNat < s.count) (hcount : s.count ≤ 64)
    (hp : p.toNat < 64) (hptbr : s.ptbr = ptbrOf p) : Completes (exec .halt s) := by
  have hkept : s.terminate.phys 1 = s.phys 1 :=
    phys_terminate_lt_three (lt_of_lt_of_le hcur hcount) hp hptbr (by decide)
  exact ⟨_, if_pos (scanDefined_of_phys_one_eq hkept (by omega))⟩

/-- Settles O43: only the scans of YLD and HALT can fail, and the premises keep `PROC_COUNT` above 0 where they scan. -/
theorem everyInstructionCompletes : Obligations.EveryInstructionCompletes := by
  intro i s hscan htable
  cases i
  case ld | ldi | ldr => exact completes_finishLoad s _ _
  case st | sti | str => exact completes_finishStore s _
  case rsv8 | rsv13 => exact completes_reservedOpcode s
  case puts => exact completes_puts s
  case yld =>
    obtain ⟨hcur, hcount⟩ := hscan (.inl rfl)
    exact completes_yld hcur hcount
  case halt =>
    obtain ⟨hcur, hcount⟩ := hscan (.inr rfl)
    obtain ⟨p, hp, hptbr⟩ := htable rfl
    exact completes_halt hcur hcount hp hptbr
  all_goals exact ⟨_, rfl⟩

end Sys2Proof.Machine
end

section
/-! Proofs about the OS traps (spec 44, 47): what BRK does in each case of its request, what the Save of YLD and the
termination of HALT change, and which process their scans find. -/

namespace Sys2Proof.Machine

/-! ## Page-table entries as numbers (10 R47) -/

theorem makePte_toNat (f : Page) (w r : Bool) :
    (makePte f w r).toNat = f.toNat * 2048 + w.toNat * 4 + r.toNat * 2 + 1 := by
  revert f w r
  decide

/-- The entry of the page of a word, by the number of that page (20 R66, R73). -/
theorem pteAddr_vpnOf (ptbr va : Word) : pteAddr ptbr (vpnOf va) = ptbr + BitVec.ofNat 16 (va.toNat / 2048) := by
  rw [pteAddr, ← vpnOf_toNat, BitVec.ofNat_toNat]

/-- Clearing V of an entry that has it is subtracting 1. -/
theorem clearValid_toNat {pte : Word} (h : pte.getLsbD 0 = true) : (pte &&& 0xFFFE).toNat = pte.toNat - 1 := by
  have hshift : pte &&& (0xFFFE : Word) = pte >>> 1 <<< 1 := and_eq_of_bits fun j hj => by interval_cases j <;> simp
  have hodd : pte.toNat % 2 = 1 := by simpa [BitVec.getLsbD] using h
  have hlt := pte.isLt
  rw [hshift, BitVec.toNat_shiftLeft, BitVec.toNat_ushiftRight]
  omega

theorem clearValid_eq_self {pte : Word} (h : pteValid pte = false) : pte &&& 0xFFFE = pte := by
  refine and_eq_of_bits fun j hj => ?_
  rcases j with _ | j
  · simpa [pteValid] using h
  · have hlt : j < 15 := by omega
    interval_cases j <;> simp

/-! ## A word after a write -/

theorem Mem.phys_setPhys_self (m : Mem) (a v : Word) : Mem.phys (Mem.setPhys m a v) a = v := by
  rw [Mem.phys_setPhys, if_pos rfl]

theorem Mem.phys_setPhys_of_ne {a b : Word} (m : Mem) (v : Word) (h : b ≠ a) :
    Mem.phys (Mem.setPhys m a v) b = Mem.phys m b := by
  rw [Mem.phys_setPhys, if_neg h.symm]

/-- The free frames when one is marked used and a word outside the bitmap is written. -/
theorem frameFree_markUsed_iff (s : State) (f g : Page) {a : Word} (v : Word) (h3 : a ≠ 3) (h4 : a ≠ 4) :
    FrameFree (s.setMem (Mem.setPhys (Mem.markUsed s.mem f) a v)) g ↔ FrameFree s g ∧ f ≠ g := by
  rw [frameFree_iff, State.setMem_mem, isFree_setPhys _ a v g h3 h4, isFree_markUsed, Bool.and_eq_true,
    decide_eq_true_eq, frameFree_iff]

/-- The free frames when one is marked free and a word outside the bitmap is written. -/
theorem frameFree_markFree_iff (s : State) (f g : Page) {a : Word} (v : Word) (h3 : a ≠ 3) (h4 : a ≠ 4) :
    FrameFree (s.setMem (Mem.setPhys (Mem.markFree s.mem f) a v)) g ↔ FrameFree s g ∨ g = f := by
  rw [frameFree_iff, State.setMem_mem, isFree_setPhys _ a v g h3 h4, isFree_markFree, Bool.or_eq_true,
    decide_eq_true_eq, frameFree_iff, eq_comm (a := g)]

/-! ## BRK (44 R191) -/

section allocator
variable {m : Mem} {ptbr : Word} {v : Page}

theorem allocate_of_valid (r w : Bool) (hv : pteValid (Mem.pte m ptbr v) = true) :
    Mem.allocate m ptbr v r w = .error .alreadyValid :=
  if_pos hv

theorem allocate_of_full (r w : Bool) (hv : pteValid (Mem.pte m ptbr v) = false)
    (hfull : ∀ f, Mem.isFree m f = false) : Mem.allocate m ptbr v r w = .error .noFrame := by
  rw [Mem.allocate, hv, (firstFree_none_iff m).2 hfull]
  rfl

theorem allocate_of_lowest {f : Page} (r w : Bool) (hv : pteValid (Mem.pte m ptbr v) = false)
    (hf : Mem.isFree m f = true) (hlow : ∀ g : Page, g < f → Mem.isFree m g = false) :
    Mem.allocate m ptbr v r w = .ok (Mem.setPhys (Mem.markUsed m f) (pteAddr ptbr v) (makePte f w r)) := by
  rw [Mem.allocate, hv, (firstFree_some_iff m f).2 ⟨hf, hlow⟩]
  rfl

theorem free_of_invalid (hv : pteValid (Mem.pte m ptbr v) = false) :
    Mem.free m v ptbr = .error .alreadyInvalid := by
  rw [Mem.free, hv]
  rfl

theorem free_of_valid (hv : pteValid (Mem.pte m ptbr v) = true) :
    Mem.free m v ptbr = .ok (Mem.setPhys (Mem.markFree m (ptePfn (Mem.pte m ptbr v))) (pteAddr ptbr v)
      (Mem.pte m ptbr v &&& 0xFFFE)) :=
  if_pos hv

end allocator

section request
variable {s : State}

theorem heapBreak_of_reserved (ha : brkAllocates (s.reg 0) = true)
    (h3 : isReservedPage (brkVpn (s.reg 0)) = true) : s.heapBreak = s.diag .reservedRegion :=
  (if_pos ha).trans (if_pos h3)

theorem heapBreak_of_allocate {r : Except Failure Mem} (ha : brkAllocates (s.reg 0) = true)
    (h3 : isReservedPage (brkVpn (s.reg 0)) = false)
    (h : Mem.allocate s.mem s.ptbr (brkVpn (s.reg 0)) (brkRead (s.reg 0)) (brkWrite (s.reg 0)) = r) :
    s.heapBreak = s.finishBrk r :=
  (if_pos ha).trans ((if_neg (Bool.eq_false_iff.1 h3)).trans (congrArg s.finishBrk h))

theorem heapBreak_of_free {r : Except Failure Mem} (ha : brkAllocates (s.reg 0) = false)
    (h : Mem.free s.mem (brkVpn (s.reg 0)) s.ptbr = r) : s.heapBreak = s.finishBrk r :=
  (if_neg (Bool.eq_false_iff.1 ha)).trans (congrArg s.finishBrk h)

end request

theorem ReportsOnly.diag (s : State) (e : Failure) : ReportsOnly s e (s.diag e) where
  diagOut := rfl
  regs _ := rfl
  rcnd := rfl
  rpc := rfl
  control := ⟨rfl, rfl, rfl, rfl, rfl⟩
  consoleIn := rfl
  consoleOut := rfl
  inputDraws := rfl
  memory _ := rfl

theorem MemoryOnly.setMem (s : State) (m : Mem) : MemoryOnly s (s.setMem m) where
  regs _ := rfl
  rcnd := rfl
  rpc := rfl
  control := ⟨rfl, rfl, rfl, rfl, rfl⟩
  streams := ⟨rfl, rfl, rfl, rfl⟩

/-- BRK is executed in every state. -/
theorem exec_brk (s : State) : exec .brk s = .next s.heapBreak := rfl

/-- Settles O36: the request selects Allocate or Free, and each thing they can do is a case of the statement. -/
theorem brkFollowsItsRequest : Obligations.BrkFollowsItsRequest := by
  refine ⟨fun x => decode_trapWord x 0x29, ?_⟩
  rintro s _ p entry _ rfl hp hptbr hentry rfl
  obtain rfl : entry = pteAddr s.ptbr (brkVpn (s.reg 0)) := hentry.trans (pteAddr_vpnOf _ _).symm
  have hvpn : (brkVpn (s.reg 0)).toNat = (s.reg 0).toNat / 2048 := vpnOf_toNat _
  have hopen (h3 : 3 ≤ (s.reg 0).toNat / 2048) : isReservedPage (brkVpn (s.reg 0)) = false := by
    rw [← Bool.not_eq_true, isReservedPage_iff]
    omega
  have hne3 : pteAddr s.ptbr (brkVpn (s.reg 0)) ≠ 3 := hptbr ▸ (pteAddr_ne hp _ (.inl (by decide))).symm
  have hne4 : pteAddr s.ptbr (brkVpn (s.reg 0)) ≠ 4 := hptbr ▸ (pteAddr_ne hp _ (.inl (by decide))).symm
  refine ⟨fun ha h3 => ⟨_, exec_brk s, ?_⟩, fun ha h3 hv => ⟨_, exec_brk s, ?_⟩,
    fun ha h3 hv hfull => ⟨_, exec_brk s, ?_⟩, fun f ha h3 hv hf hlow => ⟨_, exec_brk s, ?_⟩,
    fun ha hv => ⟨_, exec_brk s, ?_⟩, fun ha hv => ⟨_, exec_brk s, ?_⟩⟩
  · rw [heapBreak_of_reserved ha ((isReservedPage_iff _).2 (by omega))]
    exact .diag s _
  · rw [heapBreak_of_allocate ha (hopen h3) (allocate_of_valid _ _ hv)]
    exact .diag s _
  · rw [heapBreak_of_allocate ha (hopen h3)
      (allocate_of_full _ _ hv fun f => (not_frameFree_iff s f).1 (hfull f))]
    exact .diag s _
  · rw [heapBreak_of_allocate ha (hopen h3) (allocate_of_lowest _ _ hv ((frameFree_iff s f).1 hf)
      fun g hg => (not_frameFree_iff s g).1 (hlow g hg))]
    have hfree (v : Word) (g : Page) := frameFree_markUsed_iff s f g v hne3 hne4
    refine ⟨.setMem s _, ?_, fun h => ((hfree _ f).1 h).2 rfl, fun g hg => ?_, fun a ha' h3 h4 => ?_⟩
    · exact (congrArg BitVec.toNat (Mem.phys_setPhys_self _ _ _)).trans (makePte_toNat _ _ _)
    · exact (hfree _ g).trans (and_iff_left hg.symm)
    · exact (Mem.phys_setPhys_of_ne _ _ ha').trans (phys_markUsed _ f a h3 h4)
  · rw [heapBreak_of_free ha (free_of_invalid hv)]
    exact .diag s _
  · rw [heapBreak_of_free ha (free_of_valid hv)]
    refine ⟨.setMem s _, ?_, fun g => frameFree_markFree_iff s _ g _ hne3 hne4, fun a ha' h3 h4 => ?_⟩
    · exact (congrArg BitVec.toNat (Mem.phys_setPhys_self _ _ _)).trans (clearValid_toNat hv)
    · exact (Mem.phys_setPhys_of_ne _ _ ha').trans (phys_markFree _ _ a h3 h4)

/-! ## The scan of YLD and HALT (47 R241) -/

/-- A scan of a memory with the `PROC_COUNT` of s finds the first candidate that is live in that memory. -/
theorem nextRunnable_eq_some {s : State} {m : Mem} {cur next : Word} {k : Nat}
    (hcount : Mem.procCount m = s.phys 1) (hk : k < s.count) (hnext : next = s.scanCandidate cur k)
    (hlive : Mem.pcbPid m next ≠ noPid) (hdead : ∀ j < k, Mem.pcbPid m (s.scanCandidate cur j) = noPid) :
    Mem.nextRunnable m cur = some next := by
  have hcand : ∀ j, Mem.candidate m cur j = s.scanCandidate cur j := fun j => by
    rw [Mem.candidate, State.scanCandidate, hcount]
    rfl
  refine (nextRunnable_some_iff m cur next).2 ⟨k, ?_, hnext.trans (hcand k).symm, hlive, fun j hj => ?_⟩
  · rwa [hcount]
  · rw [hcand, hdead j hj]

theorem nextRunnable_eq_none {s : State} {m : Mem} {cur : Word} (hcount : Mem.procCount m = s.phys 1)
    (hdead : ∀ j < s.count, Mem.pcbPid m (s.scanCandidate cur j) = noPid) : Mem.nextRunnable m cur = none := by
  refine (nextRunnable_none_iff m cur).2 fun j hj => ?_
  rw [hcount] at hj
  rw [Mem.candidate, hcount]
  exact hdead j hj

/-- A candidate is a pid that has a PCB. -/
theorem scanCandidate_lt {s : State} (cur : Word) (k : Nat) (hpos : 0 < s.count) (hcount : s.count ≤ 64) :
    (s.scanCandidate cur k).toNat < 64 :=
  lt_of_lt_of_le (candidate_lt (m := s.mem) cur k hpos) hcount

/-! ## Load and Save (46 R226, R227) -/

theorem savedPc_eq (s : State) (p : Word) : s.savedPc p = s.phys (pcbAddr p 1) := rfl

theorem savedPtbr_eq (s : State) (p : Word) : s.savedPtbr p = s.phys (pcbAddr p 2) := rfl

/-- What a Load does: RPC and PTBR are those saved in the PCB, `CUR_PID` is the pid, and nothing else changes. -/
structure LoadsOnly (s : State) (pid : Word) (t : State) : Prop where
  rpc : t.rpc = s.savedPc pid
  ptbr : t.ptbr = s.savedPtbr pid
  current : t.phys 0 = pid
  others : ∀ a : Word, a ≠ 0 → t.phys a = s.phys a
  regs : SameRegs s t
  rcnd : t.rcnd = s.rcnd
  streams : SameStreams s t
  run : t.run = s.run
  fault : t.fault = s.fault
  faddr : t.faddr = s.faddr
  phase : t.phase = s.phase

theorem LoadsOnly.load (s : State) (pid : Word) : LoadsOnly s pid (s.load pid) where
  rpc := rfl
  ptbr := rfl
  current := Mem.phys_setPhys_self _ _ _
  others _ ha := Mem.phys_setPhys_of_ne _ _ ha
  regs _ := rfl
  rcnd := rfl
  streams := ⟨rfl, rfl, rfl, rfl⟩
  run := rfl
  fault := rfl
  faddr := rfl
  phase := rfl

theorem SameStreams.trans {s t u : State} (h : SameStreams s t) (h' : SameStreams t u) : SameStreams s u :=
  ⟨h'.consoleIn.trans h.consoleIn, h'.consoleOut.trans h.consoleOut, h'.diagOut.trans h.diagOut,
    h'.inputDraws.trans h.inputDraws⟩

/-- What a process switch leaves alone: a change of memory, then a Load. -/
theorem LoadsOnly.frame {s t u : State} {pid : Word} (h : MemoryOnly s t) (h' : LoadsOnly t pid u) :
    SameRegs s u ∧ u.rcnd = s.rcnd ∧ SameStreams s u ∧
      u.run = s.run ∧ u.fault = s.fault ∧ u.faddr = s.faddr ∧ u.phase = s.phase :=
  ⟨fun i => (h'.regs i).trans (h.regs i), h'.rcnd.trans h.rcnd, h.streams.trans h'.streams,
    h'.run.trans h.control.run, h'.fault.trans h.control.fault, h'.faddr.trans h.control.faddr,
    h'.phase.trans h.control.phase⟩

/-- What a Save of a pid below 64 does: its two words of the PCB, and nothing else (46 R227). -/
structure SavesOnly (s : State) (cur : Word) (t : State) : Prop where
  memoryOnly : MemoryOnly s t
  pc : t.savedPc cur = s.rpc
  ptbr : t.savedPtbr cur = s.ptbr
  others : ∀ a : Word, a ≠ 0x0005 + 3 * cur + 1 → a ≠ 0x0005 + 3 * cur + 2 → t.phys a = s.phys a

theorem SavesOnly.save (s : State) {cur : Word} (hcur : cur.toNat < 64) : SavesOnly s cur (s.save cur) where
  memoryOnly := .setMem s _
  pc := (Mem.phys_setPhys_of_ne _ _ fun e => absurd (pcbAddr_inj hcur hcur (by decide) (by decide) e).2
    (by decide)).trans (Mem.phys_setPhys_self _ _ _)
  ptbr := Mem.phys_setPhys_self _ _ _
  others _ h1 h2 := (Mem.phys_setPhys_of_ne _ _ h2).trans (Mem.phys_setPhys_of_ne _ _ h1)

/-- A Save keeps the pid words, and all words of the other PCBs. -/
theorem SavesOnly.pcb {s t : State} {cur p k : Word} (h : SavesOnly s cur t) (hcur : cur.toNat < 64)
    (hp : p.toNat < 64) (hk : k.toNat < 3) (hne : p ≠ cur ∨ k = 0) :
    t.phys (pcbAddr p k) = s.phys (pcbAddr p k) := by
  have hdiff {j : Word} (hj : j.toNat < 3) (h0 : j ≠ 0) : pcbAddr p k ≠ pcbAddr cur j := fun e => by
    obtain ⟨hpcur, hkj⟩ := pcbAddr_inj hp hcur hk hj e
    exact hne.elim (fun hne => hne hpcur) fun hk0 => h0 (hkj.symm.trans hk0)
  exact h.others _ (hdiff (j := 1) (by decide) (by decide)) (hdiff (j := 2) (by decide) (by decide))

/-! ## YLD (44 R190) -/

theorem exec_yld {s : State} (hcount : s.count ≤ 64) (hcur : (s.phys 0).toNat < s.count) :
    exec .yld s = .next s.yield :=
  if_pos (scanDefined_of_phys_one_eq (phys_save (lt_of_lt_of_le hcur hcount) (.inl (by decide))) (by omega))

theorem State.yield_of_some {s : State} {next : Word}
    (h : Mem.nextRunnable (s.save (s.phys 0)).mem (s.phys 0) = some next) :
    s.yield = if next = s.phys 0 then s.save (s.phys 0) else (s.save (s.phys 0)).load next := by
  change Mem.nextRunnable (s.save (Mem.curPid s.mem)).mem (Mem.curPid s.mem) = some next at h
  rw [State.yield, h]
  rfl

theorem State.yield_of_none {s : State} (h : Mem.nextRunnable (s.save (s.phys 0)).mem (s.phys 0) = none) :
    s.yield = s.save (s.phys 0) := by
  change Mem.nextRunnable (s.save (Mem.curPid s.mem)).mem (Mem.curPid s.mem) = none at h
  rw [State.yield, h]
  rfl

/-- Settles O34: the save changes no pid word, so the scan after it finds what it would have found before. -/
theorem yldSavesAndSwitchesToNextLive : Obligations.YldSavesAndSwitchesToNextLive := by
  refine ⟨fun x => decode_trapWord x 0x28, ?_⟩
  rintro s _ rfl hcount hcur
  have hlt : (s.phys 0).toNat < 64 := by omega
  have hsave := SavesOnly.save s hlt
  have hcand (j : Nat) := scanCandidate_lt (s := s) (s.phys 0) j (by omega) hcount
  have hpid {p : Word} (hp : p.toNat < 64) : Mem.pcbPid (s.save (s.phys 0)).mem p = s.pidWord p :=
    (hsave.pcb hlt hp (by decide) (.inr rfl)).trans (pidWord_eq s p).symm
  have htotal : Mem.procCount (s.save (s.phys 0)).mem = s.phys 1 := phys_save hlt (.inl (by decide))
  rw [exec_yld hcount hcur]
  refine ⟨fun k next hk hnext hlive hdead => ?_, fun hdead => ⟨_, rfl, ?_⟩⟩
  · have hp : next.toNat < 64 := hnext ▸ hcand k
    rw [State.yield_of_some (nextRunnable_eq_some htotal hk hnext (by rwa [hpid hp]) fun j hj =>
      (hpid (hcand j)).trans (hdead j hj))]
    split_ifs with hself
    · exact ⟨_, rfl, hsave.memoryOnly, hsave.pc, hsave.ptbr, hsave.others⟩
    · have hload := LoadsOnly.load (s.save (s.phys 0)) next
      have hpcb {k : Word} (hk : k.toNat < 3) : pcbAddr (s.phys 0) k ≠ 0 :=
        (pcbAddr_ne hlt hk (.inl (by decide))).symm
      refine ⟨_, rfl, hload.rpc.trans ?_, hload.ptbr.trans ?_, hload.current, ?_, ?_,
        fun a h0 h1 h2 => (hload.others a h0).trans (hsave.others a h1 h2), hload.frame hsave.memoryOnly⟩
      · exact hsave.pcb hlt hp (k := 1) (by decide) (.inl hself)
      · exact hsave.pcb hlt hp (k := 2) (by decide) (.inl hself)
      · rw [savedPc_eq, hload.others _ (hpcb (by decide)), ← savedPc_eq, hsave.pc]
      · rw [savedPtbr_eq, hload.others _ (hpcb (by decide)), ← savedPtbr_eq, hsave.ptbr]
  · rw [State.yield_of_none (nextRunnable_eq_none htotal fun j hj => (hpid (hcand j)).trans (hdead j hj))]
    exact ⟨hsave.memoryOnly, hsave.pc, hsave.ptbr, hsave.others⟩

/-! ## HALT (44 R192): the frees -/

/-- The entries after a quiet Free: that of the page has no V bit any more, the others are as they were. -/
theorem entry_freeQuiet {p : Word} (hp : p.toNat < 64) (m : Mem) (v u : Page) :
    Mem.entry (Mem.freeQuiet m v (ptbrOf p)) p u =
      if v = u then Mem.entry m p u &&& 0xFFFE else Mem.entry m p u := by
  rcases freeQuiet_effect hp m v with ⟨e, hv⟩ | ⟨_, _, hentry⟩
  · rw [e]
    split_ifs with hvu
    · rw [← hvu, clearValid_eq_self hv]
    · rfl
  · rw [hentry p u hp]
    by_cases hvu : v = u <;> simp [hvu]

/-- The frames after a quiet Free: the one the entry names, where it is valid, is free too. -/
theorem isFree_freeQuiet_iff {p : Word} (hp : p.toNat < 64) (m : Mem) (v f : Page) :
    Mem.isFree (Mem.freeQuiet m v (ptbrOf p)) f = true ↔
      Mem.isFree m f = true ∨ pteValid (Mem.entry m p v) = true ∧ ptePfn (Mem.entry m p v) = f := by
  rcases freeQuiet_effect hp m v with ⟨e, hv⟩ | ⟨hv, hfree, _⟩
  · simp [e, hv]
  · simp [hfree, hv]

/-- The entries after Frees of several pages: no valid entry is left among them. -/
theorem entry_freePages {p : Word} (hp : p.toNat < 64) (u : Page) (vs : List Page) : ∀ m : Mem,
    Mem.entry (Mem.freePages m (ptbrOf p) vs) p u =
      if u ∈ vs then Mem.entry m p u &&& 0xFFFE else Mem.entry m p u := by
  induction vs with
  | nil => exact fun _ => rfl
  | cons v vs ih =>
    intro m
    rw [Mem.freePages, ih, entry_freeQuiet hp]
    by_cases hvu : v = u
    · simp [hvu, BitVec.and_assoc]
    · simp [hvu, Ne.symm hvu]

/-- The frames after Frees of several pages. A Free takes V from its own entry only, so the later ones still find the
entries of their pages. -/
theorem isFree_freePages_iff {p : Word} (hp : p.toNat < 64) (f : Page) (vs : List Page) : ∀ m : Mem,
    Mem.isFree (Mem.freePages m (ptbrOf p) vs) f = true ↔
      Mem.isFree m f = true ∨ ∃ v ∈ vs, pteValid (Mem.entry m p v) = true ∧ ptePfn (Mem.entry m p v) = f := by
  induction vs with
  | nil => simp [Mem.freePages]
  | cons v vs ih =>
    intro m
    have hrest : ∀ u, pteValid (Mem.entry (Mem.freeQuiet m v (ptbrOf p)) p u) = true ↔
        v ≠ u ∧ pteValid (Mem.entry m p u) = true := fun u => by
      rw [entry_freeQuiet hp]
      split_ifs with hvu
      · rw [clearValid_valid]
        simp [hvu]
      · simp [hvu]
    have hpfn : ∀ u, ptePfn (Mem.entry (Mem.freeQuiet m v (ptbrOf p)) p u) = ptePfn (Mem.entry m p u) := fun u => by
      rw [entry_freeQuiet hp]
      split_ifs
      · exact clearValid_pfn _
      · rfl
    rw [Mem.freePages, ih, isFree_freeQuiet_iff hp]
    simp only [hrest, hpfn, List.mem_cons]
    constructor
    · rintro ((hf | hv) | ⟨u, hu, ⟨_, hvalid⟩, hf⟩)
      · exact .inl hf
      · exact .inr ⟨v, .inl rfl, hv⟩
      · exact .inr ⟨u, .inr hu, hvalid, hf⟩
    · rintro (hf | ⟨u, hu, hvalid, hf⟩)
      · exact .inl (.inl hf)
      · by_cases hvu : v = u
        · exact .inl (.inr ⟨hvu ▸ hvalid, hvu ▸ hf⟩)
        · exact .inr ⟨u, hu.resolve_left (Ne.symm hvu), ⟨hvu, hvalid⟩, hf⟩

/-- Frees in the table of a pid change no word outside the bitmap and that table. -/
theorem phys_freePages {p a : Word} (hp : p.toNat < 64) (m : Mem) (vs : List Page) (h3 : a ≠ 3) (h4 : a ≠ 4)
    (ha : ∀ v : Page, a ≠ pteAddr (ptbrOf p) v) : Mem.phys (Mem.freePages m (ptbrOf p) vs) a = Mem.phys m a := by
  rcases lt_or_ge a.toNat 0x1800 with hlow | hhigh
  · exact freePages_tableOnly (List.Subset.refl vs) m a hlow h3 h4 fun v _ => ha v
  · exact freePages_phys_high hp hhigh vs m

/-! ## HALT: the termination, then the scan -/

theorem pcbAddr_pid (p : Word) : pcbAddr p 0 = 0x0005 + 3 * p := by
  simp [pcbAddr]

/-- What HALT does to memory stays done when `CUR_PID` is written. -/
theorem HaltsCaller.congr {s t u : State} {cur p : Word} (h : HaltsCaller s cur t) (hcur : cur.toNat < 64)
    (hp : p.toNat < 64) (hptbr : s.ptbr = ptbrOf p) (hu : ∀ a : Word, a ≠ 0 → u.phys a = t.phys a) :
    HaltsCaller s cur u where
  entries v := by
    rw [hu _ (hptbr ▸ (pteAddr_ne hp v (.inl (by decide))).symm)]
    exact h.entries v
  frames f := by
    have hbit : bitmapAddrOf f ≠ 0 := by
      rw [bitmapAddrOf_eq]
      split_ifs <;> decide
    rw [← h.frames f, frameFree_iff, frameFree_iff, isFree_eq, isFree_eq]
    exact iff_of_eq (congrArg (fun w : Word => w.getLsbD (f.toNat % 16) = true) (hu _ hbit))
  pid := (hu _ (pcbAddr_pid cur ▸ (pcbAddr_ne hcur (by decide) (.inl (by decide))).symm)).trans h.pid
  others a h0 h3 h4 hpid hentry := (hu a h0).trans (h.others a h0 h3 h4 hpid hentry)

/-- The memory after the first half of Halt, with PTBR the table of pid p (47 R243). -/
theorem mem_terminate {s : State} {p : Word} (hptbr : s.ptbr = ptbrOf p) : s.terminate.mem =
    Mem.setPhys (Mem.freePages s.mem (ptbrOf p) pages) (pcbAddr (s.phys 0) 0) noPid := by
  rw [← hptbr]
  rfl

section termination
variable {s : State} {p : Word} (hcur : (s.phys 0).toNat < 64) (hp : p.toNat < 64) (hptbr : s.ptbr = ptbrOf p)
include hcur hp hptbr

/-- The frees empty the table PTBR names, and the last write marks the caller's slot (47 R243). -/
theorem haltsCaller_terminate : HaltsCaller s (s.phys 0) s.terminate := by
  have hmem := mem_terminate hptbr
  have hbounds := pcbAddr_bounds (k := 0) hcur (by decide)
  refine ⟨fun v => ?_, fun f => ?_, ?_, fun a h0 h3 h4 hpid hentry => ?_⟩
  · have hentry := entry_freePages hp v pages s.mem
    rw [if_pos (mem_pages v), ← entry_setPhys_other hp _ v noPid (.inl hbounds.2), ← hmem] at hentry
    rw [hptbr]
    exact hentry
  · rw [frameFree_iff, hmem, isFree_setPhys _ _ _ f (pcbAddr_ne hcur (by decide) (.inl (by decide))).symm
      (pcbAddr_ne hcur (by decide) (.inl (by decide))).symm, isFree_freePages_iff hp, frameFree_iff, hptbr]
    simp only [mem_pages, true_and]
    rfl
  · rw [pidWord_eq, hmem]
    exact Mem.phys_setPhys_self _ _ _
  · rw [hptbr] at hentry
    rw [← pcbAddr_pid] at hpid
    rw [State.phys, hmem, Mem.phys_setPhys_of_ne _ _ hpid]
    exact phys_freePages hp s.mem pages h3 h4 hentry

/-- The PCBs of the other processes stay. -/
theorem terminate_pcb {q k : Word} (hq : q.toNat < 64) (hk : k.toNat < 3) (hne : q ≠ s.phys 0) :
    s.terminate.phys (pcbAddr q k) = s.phys (pcbAddr q k) := by
  rw [State.phys, mem_terminate hptbr,
    Mem.phys_setPhys_of_ne _ _ fun e => hne (pcbAddr_inj hq hcur hk (by decide) e).1]
  exact (freePages_tableOnly (List.Subset.refl pages) s.mem).phys_pcb hp hq hk

end termination

theorem exec_halt {s : State} {p : Word} (hcount : s.count ≤ 64) (hcur : (s.phys 0).toNat < s.count)
    (hp : p.toNat < 64) (hptbr : s.ptbr = ptbrOf p) : exec .halt s = .next s.halt :=
  if_pos (scanDefined_of_phys_one_eq
    (phys_terminate_lt_three (lt_of_lt_of_le hcur hcount) hp hptbr (by decide)) (by omega))

theorem State.halt_of_some {s : State} {next : Word}
    (h : Mem.nextRunnable s.terminate.mem (s.phys 0) = some next) : s.halt = s.terminate.load next := by
  change Mem.nextRunnable s.terminate.mem (Mem.curPid s.mem) = some next at h
  rw [State.halt, h]

theorem State.halt_of_none {s : State} (h : Mem.nextRunnable s.terminate.mem (s.phys 0) = none) :
    s.halt = s.terminate.setRun false := by
  change Mem.nextRunnable s.terminate.mem (Mem.curPid s.mem) = none at h
  rw [State.halt, h]

/-- Settles O35: after the termination the scan skips the caller, whose pid word is 0xFFFF, and finds every other
process as it was. -/
theorem haltTerminatesCallerAndLoadsOrStops : Obligations.HaltTerminatesCallerAndLoadsOrStops := by
  refine ⟨fun x => decode_trapWord x 0x25, ?_⟩
  rintro s _ p rfl hcount hcur hp hptbr
  have hlt : (s.phys 0).toNat < 64 := by omega
  have hhalts := haltsCaller_terminate hlt hp hptbr
  have hterm : MemoryOnly s s.terminate := .setMem s _
  have hcand (j : Nat) := scanCandidate_lt (s := s) (s.phys 0) j (by omega) hcount
  have hpcb {q k : Word} (hq : q.toNat < 64) (hk : k.toNat < 3) := terminate_pcb hlt hp hptbr (k := k) hq hk
  have hdead {j : Nat} (h : s.scanCandidate (s.phys 0) j = s.phys 0 ∨
      s.pidWord (s.scanCandidate (s.phys 0) j) = 0xFFFF) :
      Mem.pcbPid s.terminate.mem (s.scanCandidate (s.phys 0) j) = noPid := by
    by_cases hself : s.scanCandidate (s.phys 0) j = s.phys 0
    · rw [hself, ← pidWord_eq]
      exact hhalts.pid
    · exact (hpcb (hcand j) (by decide) hself).trans ((pidWord_eq s _).symm.trans (h.resolve_left hself))
  have hlow {a : Word} (ha : a.toNat < 3) : s.terminate.phys a = s.phys a := phys_terminate_lt_three hlt hp hptbr ha
  rw [exec_halt hcount hcur hp hptbr]
  refine ⟨fun k next hk hnext hne hlive hfirst => ⟨_, rfl, ?_⟩, fun hnone => ⟨_, rfl, ?_⟩⟩
  · have hq : next.toNat < 64 := hnext ▸ hcand k
    have hlive' : Mem.pcbPid s.terminate.mem next ≠ noPid := fun e =>
      hlive ((pidWord_eq s next).trans ((hpcb hq (by decide) hne).symm.trans e))
    rw [State.halt_of_some (nextRunnable_eq_some (hlow (a := 1) (by decide)) hk hnext hlive'
      fun j hj => hdead (hfirst j hj))]
    have hload := LoadsOnly.load s.terminate next
    exact ⟨hhalts.congr hlt hp hptbr hload.others, hload.rpc.trans (hpcb hq (k := 1) (by decide) hne),
      hload.ptbr.trans (hpcb hq (k := 2) (by decide) hne), hload.current, hload.frame hterm⟩
  · rw [State.halt_of_none (nextRunnable_eq_none (hlow (a := 1) (by decide)) fun j hj => hdead (hnone j hj))]
    obtain ⟨hregs, hrcnd, hrpc, hcontrol, hstreams⟩ := hterm
    exact ⟨hhalts.congr hlt hp hptbr fun _ _ => rfl, rfl, hrpc, hcontrol.ptbr, hlow (by decide), hregs, hrcnd,
      ⟨hstreams.consoleIn, hstreams.consoleOut, hstreams.diagOut, hstreams.inputDraws⟩, hcontrol.fault,
      hcontrol.faddr, hcontrol.phase⟩

end Sys2Proof.Machine
end

section
/-! Proofs about the frame allocator (spec 45): Free undoes the bitmap change of Allocate, and both move one frame
between the bitmap and the page tables. -/

namespace Sys2Proof.Machine

/-! ## Allocate, then Free (45 R205 (e)) -/

theorem clear_then_set_frameBit {w : Word} {f : Nat} (h : w.getLsbD (f % 16) = true) :
    w &&& ~~~ frameBit f ||| frameBit f = w := by
  apply BitVec.eq_of_getLsbD_eq
  intro i hi
  rw [BitVec.getLsbD_or, BitVec.getLsbD_and, BitVec.getLsbD_not, getLsbD_frameBit f i hi]
  by_cases hif : i = f % 16
  · simp [hif, h]
  · simp [hif, hi]

/-- Marking a free frame used and then free again gives every word back. -/
theorem phys_markFree_markUsed {m : Mem} {f : Page} (hf : Mem.isFree m f = true) (a : Word) :
    Mem.phys (Mem.markFree (Mem.markUsed m f) f) a = Mem.phys m a := by
  rw [Mem.markFree, Mem.phys_setPhys, Mem.markUsed, Mem.phys_setPhys_self, Mem.phys_setPhys]
  split_ifs with ha
  · rw [clear_then_set_frameBit ((isFree_eq m f).symm.trans hf), ha]
  · rfl

/-- What a word is after a frame is marked free depends on that word alone. -/
theorem phys_markFree_congr {m m' : Mem} (f : Page) {a : Word} (h : Mem.phys m a = Mem.phys m' a) :
    Mem.phys (Mem.markFree m f) a = Mem.phys (Mem.markFree m' f) a := by
  rw [Mem.markFree, Mem.markFree, Mem.phys_setPhys, Mem.phys_setPhys]
  split_ifs with ha
  · rw [ha, h]
  · exact h

/-- Free finds the entry Allocate wrote, which names the frame whose bit Allocate cleared. -/
theorem free_after_allocate {m m' : Mem} {ptbr : Word} {v : Page} {r w : Bool}
    (e : Mem.allocate m ptbr v r w = .ok m') : ∃ m'', Mem.free m' v ptbr = .ok m'' ∧
      ∀ a : Word, a ≠ pteAddr ptbr v → Mem.phys m'' a = Mem.phys m a := by
  rcases allocate_cases m ptbr v r w with ⟨h, _⟩ | ⟨h, _⟩ | ⟨f, h, _, hf, _⟩ <;> rw [h] at e <;> cases e
  have hpte : Mem.pte (Mem.setPhys (Mem.markUsed m f) (pteAddr ptbr v) (makePte f w r)) ptbr v = makePte f w r :=
    Mem.phys_setPhys_self _ _ _
  refine ⟨_, free_of_valid (by rw [hpte, makePte_valid]), fun a ha => ?_⟩
  rw [hpte, makePte_pfn, Mem.phys_setPhys_of_ne _ _ ha, phys_markFree_congr f (Mem.phys_setPhys_of_ne _ _ ha),
    phys_markFree_markUsed hf]

/-- Settles O38: Free after Allocate, with the table of a pid at its address. -/
theorem allocateThenFreeRestoresBitmap : Obligations.AllocateThenFreeRestoresBitmap :=
  fun _ _ _ _ _ _ _ e => free_after_allocate e

/-! ## One frame moves between the bitmap and the tables (45 R205 (a), (d)) -/

/-- Frame f leaves the bitmap and the entry of page v of pid p becomes valid; the other frames and entries are free and
valid as before. A successful Allocate does this, and a successful Free undoes it. -/
structure FrameTaken (p : Word) (v f : Page) (m m' : Mem) : Prop where
  wasFree : Mem.isFree m f = true
  wasUnmapped : pteValid (Mem.entry m p v) = false
  frames : ∀ g, Mem.isFree m' g = true ↔ f ≠ g ∧ Mem.isFree m g = true
  entries : ∀ (q : Word) (u : Page), q.toNat < 64 →
    (pteValid (Mem.entry m' q u) = true ↔ (p = q ∧ v = u) ∨ pteValid (Mem.entry m q u) = true)

theorem frameTaken_of_allocate {m m' : Mem} {p : Word} {v : Page} {r w : Bool} (hp : p.toNat < 64)
    (e : Mem.allocate m (ptbrOf p) v r w = .ok m') : ∃ f, FrameTaken p v f m m' := by
  obtain ⟨f, hv, hf, hfree, hentry⟩ := allocate_ok hp e
  refine ⟨f, hf, hv, fun g => ?_, fun q u hq => ?_⟩
  · rw [hfree, Bool.and_eq_true, decide_eq_true_eq, and_comm]
  · rw [hentry q u hq]
    split_ifs with hqu
    · simp [hqu, makePte_valid]
    · simp [hqu]

/-- From the memory after a Free, taking the frame back leads to the one before it. -/
theorem frameTaken_of_free {m m' : Mem} {p : Word} {v : Page} (hp : p.toNat < 64)
    (e : Mem.free m v (ptbrOf p) = .ok m') (hused : Mem.isFree m (ptePfn (Mem.entry m p v)) = false) :
    FrameTaken p v (ptePfn (Mem.entry m p v)) m' m := by
  rcases freeQuiet_effect hp m v with ⟨_, hv⟩ | ⟨hv, hfree, hentry⟩
  · rw [free_of_invalid hv] at e
    cases e
  rw [freeQuiet_eq_of_free e] at hfree hentry
  refine ⟨?_, ?_, fun g => ?_, fun q u hq => ?_⟩
  · simp [hfree]
  · rw [hentry p v hp, if_pos ⟨rfl, rfl⟩, clearValid_valid]
  · by_cases hg : ptePfn (Mem.entry m p v) = g
    · simp [← hg, hused]
    · simp [hfree, hg]
  · rw [hentry q u hq]
    split_ifs with hqu
    · obtain ⟨rfl, rfl⟩ := hqu
      simpa using hv
    · simp [hqu]

theorem freeFrames_eq_card (s : State) :
    s.freeFrames = (allPages.filter fun f => Mem.isFree s.mem f = true).card := by
  rw [State.freeFrames, length_filter_pages]
  simp only [frameFree_iff, decide_eq_true_eq]

section taken
variable {s t : State} {p : Word} {v f : Page} (h : FrameTaken p v f s.mem t.mem)
include h

theorem FrameTaken.freeFrames : t.freeFrames + 1 = s.freeFrames := by
  have herase : (allPages.filter fun g => Mem.isFree t.mem g = true) =
      (allPages.filter fun g => Mem.isFree s.mem g = true).erase f := by
    ext g
    simp only [Finset.mem_filter, Finset.mem_erase, mem_allPages, true_and, h.frames, ne_comm]
  rw [freeFrames_eq_card, freeFrames_eq_card, herase,
    Finset.card_erase_add_one (Finset.mem_filter.2 ⟨mem_allPages f, h.wasFree⟩)]

theorem FrameTaken.validEntries (hp : p.toNat < 64) : t.validEntries = s.validEntries + 1 := by
  have hnot : (⟨p.toNat, v⟩ : Σ _ : Nat, Page) ∉ s.validSet := fun hmem => by
    have hvalid := ((mem_validSet s _).1 hmem).2
    rw [BitVec.ofNat_toNat, BitVec.setWidth_eq, h.wasUnmapped] at hvalid
    cases hvalid
  have hinsert : t.validSet = insert ⟨p.toNat, v⟩ s.validSet := by
    ext ⟨n, u⟩
    rw [Finset.mem_insert, mem_validSet, mem_validSet, Sigma.mk.injEq, heq_eq_eq]
    by_cases hn : n < 64
    · have hlt : (BitVec.ofNat 16 n).toNat = n := by rw [BitVec.toNat_ofNat]; omega
      have hpid : p = BitVec.ofNat 16 n ↔ n = p.toNat := by rw [← BitVec.toNat_inj, hlt, eq_comm]
      simp only [h.entries _ u (hlt.symm ▸ hn), hn, true_and, hpid, eq_comm (a := v)]
    · have hne : n ≠ p.toNat := by omega
      simp [hn, hne]
  rw [validEntries_eq_card, validEntries_eq_card, hinsert, Finset.card_insert_of_notMem hnot]

end taken

/-- Settles O39: Allocate takes a frame, and Free takes one seen backwards. -/
theorem allocatorConservesFrames : Obligations.AllocatorConservesFrames := by
  intro s p v m hp
  refine ⟨fun r w e => ?_, fun e hused => ?_⟩
  · obtain ⟨f, htaken⟩ : ∃ f, FrameTaken p v f s.mem (s.setMem m).mem := frameTaken_of_allocate hp e
    exact ⟨htaken.freeFrames, htaken.validEntries hp⟩
  · have htaken : FrameTaken p v _ (s.setMem m).mem s.mem :=
      frameTaken_of_free hp e ((not_frameFree_iff s _).1 hused)
    exact ⟨htaken.freeFrames.symm, (htaken.validEntries hp).symm⟩

end Sys2Proof.Machine
end

section
/-! Create that fails (46 R225 (b)): the only reason is that no frame is left, and the rollback gives every frame back.
A failing Create leaves the tables in order with the entries they had, and those fix the bitmap. -/

namespace Sys2Proof.Machine

/-! ## The bitmap is a function of the valid entries -/

/-- The free frames are those from 3 on that no valid entry names (10 R48 (a), (b)). -/
theorem TablesInv.isFree_iff {m : Mem} (h : TablesInv m) (f : Page) : Mem.isFree m f = true ↔
    3 ≤ f.toNat ∧ ∀ (p : Word) (v : Page), p.toNat < 64 → pteValid (Mem.entry m p v) = true →
      f ≠ ptePfn (Mem.entry m p v) := by
  refine ⟨fun hf => ⟨h.three_le_of_isFree hf, fun _ _ hp hv => h.pfn_ne_of_isFree hf hp hv⟩, fun ⟨h3, hne⟩ => ?_⟩
  by_contra hused
  obtain ⟨p, v, hp, hv, hpfn⟩ := h.usedMapped f h3 (Bool.not_eq_true _ ▸ hused)
  exact hne p v hp hv hpfn.symm

/-- Tables that are in order and have the same valid entries go with the same free frames. -/
theorem TablesInv.isFree_congr {m m' : Mem} (h : TablesInv m) (h' : TablesInv m')
    (hvalid : ∀ (p : Word) (v : Page), p.toNat < 64 →
      pteValid (Mem.entry m' p v) = pteValid (Mem.entry m p v))
    (hentry : ∀ (p : Word) (v : Page), p.toNat < 64 → pteValid (Mem.entry m p v) = true →
      Mem.entry m' p v = Mem.entry m p v) (f : Page) : Mem.isFree m' f = Mem.isFree m f := by
  rw [Bool.eq_iff_iff, h.isFree_iff, h'.isFree_iff]
  refine and_congr_right fun _ => forall_congr' fun p => forall_congr' fun v => forall_congr' fun hp => ?_
  rw [hvalid p v hp]
  exact forall_congr' fun hv => by rw [hentry p v hp hv]

/-! ## What the steps of Create can do (46 R223) -/

/-- The first page of a segment is refused, or the second is, or both are allocated. -/
theorem allocateTwo_cases (m : Mem) (ptbr : Word) (v0 : Page) (w : Bool) :
    (∃ e, Mem.allocate m ptbr v0 true w = .error e ∧ Mem.allocateTwo m ptbr v0 w = .error (e, m)) ∨
    (∃ m1 e, Mem.allocate m ptbr v0 true w = .ok m1 ∧ Mem.allocate m1 ptbr (v0 + 1) true w = .error e ∧
      Mem.allocateTwo m ptbr v0 w = .error (e, m1)) ∨
    ∃ m1 m2, Mem.allocate m ptbr v0 true w = .ok m1 ∧ Mem.allocate m1 ptbr (v0 + 1) true w = .ok m2 ∧
      Mem.allocateTwo m ptbr v0 w = .ok m2 := by
  unfold Mem.allocateTwo
  cases e1 : Mem.allocate m ptbr v0 true w with
  | error e => exact .inl ⟨e, rfl, rfl⟩
  | ok m1 =>
    dsimp only
    cases e2 : Mem.allocate m1 ptbr (v0 + 1) true w with
    | error e => exact .inr (.inl ⟨m1, e, rfl, e2, rfl⟩)
    | ok m2 => exact .inr (.inr ⟨m1, m2, rfl, e2, rfl⟩)

/-- The code segment is refused, or the heap segment is, or both are allocated and loaded. -/
theorem buildProcess_cases (m : Mem) (n : Word) (code heap : List Word) :
    (∃ e, Mem.allocateTwo (Mem.writePcb m n) (ptbrOf n) codeVpn false = .error e ∧
      Mem.buildProcess m n code heap = .error e) ∨
    (∃ m1 e, Mem.allocateTwo (Mem.writePcb m n) (ptbrOf n) codeVpn false = .ok m1 ∧
      Mem.allocateTwo (Mem.loadImage m1 code (ptbrOf n) codeVpn) (ptbrOf n) heapVpn true = .error e ∧
      Mem.buildProcess m n code heap = .error e) ∨
    ∃ m1 m2, Mem.allocateTwo (Mem.writePcb m n) (ptbrOf n) codeVpn false = .ok m1 ∧
      Mem.allocateTwo (Mem.loadImage m1 code (ptbrOf n) codeVpn) (ptbrOf n) heapVpn true = .ok m2 ∧
      Mem.buildProcess m n code heap = .ok (Mem.loadImage m2 heap (ptbrOf n) heapVpn) := by
  unfold Mem.buildProcess
  cases e1 : Mem.allocateTwo (Mem.writePcb m n) (ptbrOf n) codeVpn false with
  | error e => exact .inl ⟨e, rfl, rfl⟩
  | ok m1 =>
    dsimp only
    cases e2 : Mem.allocateTwo (Mem.loadImage m1 code (ptbrOf n) codeVpn) (ptbrOf n) heapVpn true with
    | error e => exact .inr (.inl ⟨m1, e, rfl, e2, rfl⟩)
    | ok m2 => exact .inr (.inr ⟨m1, m2, rfl, e2, rfl⟩)

theorem page_ne_succ (v : Page) : v ≠ v + 1 := by
  revert v
  decide

section segment
variable {m m' : Mem} {p : Word} {v0 : Page} {w : Bool}

/-- A segment that is allocated changes, below frame 3, the bitmap and its own two entries. -/
theorem allocateTwo_tableOnly (e : Mem.allocateTwo m (ptbrOf p) v0 w = .ok m') :
    TableOnly p [v0, v0 + 1] m m' := by
  rcases allocateTwo_cases m (ptbrOf p) v0 w with ⟨_, _, h⟩ | ⟨_, _, _, _, h⟩ | ⟨m1, m2, h1, h2, h⟩ <;>
    rw [h] at e <;> cases e
  exact (allocate_tableOnly (by simp) h1).trans (allocate_tableOnly (by simp) h2)

/-- Allocate of a page that is not mapped fails only where no frame is free (45 R202). -/
theorem allocate_error {v : Page} {r : Bool} {f : Failure} (hv : pteValid (Mem.entry m p v) = false)
    (e : Mem.allocate m (ptbrOf p) v r w = .error f) : f = .noFrame ∧ ∀ g, Mem.isFree m g = false := by
  rcases allocate_cases m (ptbrOf p) v r w with ⟨_, hvalid⟩ | ⟨h, _, hnone⟩ | ⟨_, h, _⟩
  · cases hv.symm.trans hvalid
  · rw [h] at e
    cases e
    exact ⟨rfl, hnone⟩
  · rw [h] at e
    cases e

/-- A segment of which no page is mapped is refused only where no frame is left. -/
theorem allocateTwo_error {f : Failure} (hp : p.toNat < 64) (h0 : pteValid (Mem.entry m p v0) = false)
    (h1 : pteValid (Mem.entry m p (v0 + 1)) = false)
    (e : Mem.allocateTwo m (ptbrOf p) v0 w = .error (f, m')) : f = .noFrame ∧ ∀ g, Mem.isFree m' g = false := by
  rcases allocateTwo_cases m (ptbrOf p) v0 w with ⟨_, e1, h⟩ | ⟨m1, _, e1, e2, h⟩ | ⟨_, _, _, _, h⟩ <;>
    rw [h] at e <;> cases e
  · exact allocate_error h0 e1
  · obtain ⟨_, _, _, _, hentry⟩ := allocate_ok hp e1
    refine allocate_error ?_ e2
    rw [hentry p (v0 + 1) hp, if_neg fun h => page_ne_succ v0 h.2, h1]

end segment

theorem building_writePcb {m : Mem} {n : Word} (hn : n.toNat < 64) (ht : TablesInv m) :
    Building n (Mem.writePcb m n) (Mem.writePcb m n) :=
  ⟨((ht.setPhys_pcb _ hn (by decide)).setPhys_pcb _ hn (by decide)).setPhys_pcb _ hn (by decide), .refl _ _ _⟩

/-- Steps 2 to 4 of Create, where no segment page of the new pid is mapped, fail only where no frame is left
(46 R225 (b)). -/
theorem buildProcess_error {m m' : Mem} {n : Word} {code heap : List Word} {f : Failure} (hn : n.toNat < 64)
    (ht : TablesInv m) (hcode : code.length ≤ 4096)
    (hun : ∀ v ∈ segmentPages, pteValid (Mem.entry m n v) = false)
    (e : Mem.buildProcess m n code heap = .error (f, m')) : f = .noFrame ∧ ∀ g, Mem.isFree m' g = false := by
  have hpcb : ∀ v, Mem.entry (Mem.writePcb m n) n v = Mem.entry m n v :=
    fun v => phys_writePcb hn (.inr (pteAddr_bounds hn v).1)
  rcases buildProcess_cases m n code heap with ⟨_, e1, h⟩ | ⟨m1, _, e1, e2, h⟩ | ⟨_, _, _, _, h⟩ <;>
    rw [h] at e <;> cases e
  · exact allocateTwo_error hn ((hpcb _).symm ▸ hun _ (by decide)) ((hpcb _).symm ▸ hun _ (by decide)) e1
  · obtain ⟨h1, hmap⟩ := (building_writePcb hn ht).allocateTwo hn (v0 := codeVpn) false (by decide) (by decide)
    rw [e1] at h1
    have hold : ∀ v : Page, v ∉ [codeVpn, codeVpn + 1] →
        Mem.entry (Mem.loadImage m1 code (ptbrOf n) codeVpn) n v = Mem.entry m n v := fun v hv =>
      (loadImage_low hn h1.tables (hmap m1 e1) hcode _ (pteAddr_bounds hn v).2).trans
        (((allocateTwo_tableOnly e1).entry hn hn fun _ => hv).trans (hpcb v))
    refine allocateTwo_error hn ?_ ?_ e2
    · rw [hold _ (by decide), hun _ (by decide)]
    · rw [hold _ (by decide), hun _ (by decide)]

/-! ## The rollback -/

section create
variable {m m' : Mem} {n : Word} {code heap : List Word} (hn : n.toNat < 64) (ht : TablesInv m)
  (hcode : code.length ≤ 4096) (hheap : heap.length ≤ 4096)
include hn ht hcode hheap

theorem building_of_error {f : Failure} (e : Mem.buildProcess m n code heap = .error (f, m')) :
    Building n (Mem.writePcb m n) m' := by
  have hb := buildProcess_building hn ht hcode hheap
  rwa [e] at hb

theorem building_of_ok (e : Mem.buildProcess m n code heap = .ok m') : Building n (Mem.writePcb m n) m' := by
  have hb := buildProcess_building hn ht hcode hheap
  rwa [e] at hb

/-- A rollback that starts from tables in which the new pid maps nothing gives every frame back (46 R225). -/
theorem isFree_rollback {f : Failure} (hun : ∀ v, pteValid (Mem.entry m n v) = false)
    (e : Mem.buildProcess m n code heap = .error (f, m')) (g : Page) :
    Mem.isFree (Mem.rollback m' n) g = Mem.isFree m g := by
  have hroll := (building_of_error hn ht hcode hheap e).rollback hn
  refine ht.isFree_congr hroll.tables (fun p v hp => ?_) (fun p v hp hv => hroll.entry hn hp ?_) g
  · by_cases hseg : n = p ∧ v ∈ segmentPages
    · obtain ⟨rfl, hmem⟩ := hseg
      rw [hun v]
      exact freePages_unmaps hn segmentPages hmem m'
    · rw [hroll.entry hn hp fun hnp hmem => hseg ⟨hnp, hmem⟩]
  · rintro rfl
    rw [hun v] at hv
    cases hv

end create

/-- The table is full when its flag is set or 64 pids are used up (46 R223). -/
theorem State.tableFull_eq_false {s : State} (hcount : s.count < 64)
    (hflag : (s.phys 0x0002).getLsbD 0 = false) : Mem.tableFull s.mem = false := by
  have hbit : (Mem.osStatus s.mem &&& fullFlag != 0) = (s.phys 0x0002).getLsbD 0 := and_frameBit _ 0
  rw [Mem.tableFull, hbit, hflag, Bool.false_or, decide_eq_false_iff_not]
  exact not_le.2 hcount

/-- The table of the next pid maps nothing (46 R225). -/
theorem SlotsInv.next_unmapped {m : Mem} (h : SlotsInv m) (hcount : (Mem.procCount m).toNat < 64) (v : Page) :
    pteValid (Mem.entry m (Mem.procCount m) v) = false :=
  Bool.eq_false_iff.2 fun hv => Nat.lt_irrefl _ (h.mappedLive _ v hcount hv).1

/-- Settles O59: the rollback restores the valid entries, which fix the bitmap, and the OS words before the bitmap are
never written. -/
theorem failedCreateLeaksNoFrame : Obligations.FailedCreateLeaksNoFrame := by
  intro s t code heap h hcount hflag hcode hheap e
  have hfull := s.tableFull_eq_false hcount hflag
  have hn : (Mem.procCount s.mem).toNat < 64 := hcount
  have hun := h.slots.next_unmapped hn
  rcases s.create_cases code heap with ⟨hfull', _⟩ | ⟨m, _, _, hc⟩ | ⟨f, m, _, hbuild, hc⟩
  · cases hfull.symm.trans hfull'
  · cases hc.symm.trans e
  · obtain ⟨_, rfl⟩ := Prod.mk.inj (hc.symm.trans e)
    obtain ⟨rfl, _⟩ := buildProcess_error hn h.tables hcode (fun v _ => hun v) hbuild
    have hroll := (building_of_error hn h.tables hcode hheap hbuild).rollback hn
    have hcountWord := hroll.phys_lt_three hn (a := 0x0001) (by decide)
    have hstatusWord := hroll.phys_lt_three hn (a := 0x0002) (by decide)
    refine ⟨fun g => ?_, congrArg BitVec.toNat hcountWord, hstatusWord, rfl⟩
    rw [frameFree_iff, frameFree_iff]
    exact Bool.eq_iff_iff.1 (isFree_rollback hn h.tables hcode hheap hun hbuild g)

end Sys2Proof.Machine
end

section
/-! The images of a created process (46 R224, R229): where each word of a segment's image lies, that loading puts it there
and disturbs no other segment, and that a translated read of the segment finds it; then Create, Load and Start after
Reset. -/

namespace Sys2Proof.Machine

/-! ## Where the words of an image lie (46 R224) -/

/-- The page of word k of the image of the segment from page v0 on. -/
def imagePage (v0 : Page) (k : Nat) : Page := v0 + BitVec.ofNat 5 (k / pageWords)

/-- The physical address of word k of that image, under the table of pid p. -/
def Mem.imageAddr (m : Mem) (p : Word) (v0 : Page) (k : Nat) : Word :=
  physAddr (ptePfn (Mem.entry m p (imagePage v0 k))) (BitVec.ofNat 11 (k % pageWords))

theorem loadImageFrom_cons (m : Mem) (p : Word) (v0 : Page) (k : Nat) (w : Word) (img : List Word) :
    Mem.loadImageFrom m (ptbrOf p) v0 k (w :: img) =
      Mem.loadImageFrom (Mem.setPhys m (Mem.imageAddr m p v0 k) w) (ptbrOf p) v0 (k + 1) img := rfl

/-- An image of at most 4096 words lies in the two pages of its segment. -/
theorem imagePage_mem (v0 : Page) {k : Nat} (hk : k < 4096) : imagePage v0 k ∈ [v0, v0 + 1] := by
  have hlt : k / pageWords < 2 := Nat.div_lt_of_lt_mul (show k < 2048 * 2 from hk)
  unfold imagePage
  interval_cases k / pageWords <;> simp

theorem imagePage_inj {v0 : Page} {i j : Nat} (hi : i < 4096) (hj : j < 4096)
    (h : imagePage v0 i = imagePage v0 j) (hmod : i % pageWords = j % pageWords) : i = j := by
  have hdiv := congrArg BitVec.toNat ((BitVec.add_right_inj v0).1 h)
  rw [BitVec.toNat_ofNat, BitVec.toNat_ofNat] at hdiv
  simp only [pageWords] at hdiv hmod
  omega

theorem physAddr_inj {f g : Page} {o o' : BitVec 11} (h : physAddr f o = physAddr g o') : f = g ∧ o = o' := by
  have e := congrArg BitVec.toNat h
  rw [physAddr_toNat, physAddr_toNat] at e
  have ho := o.isLt
  have ho' := o'.isLt
  exact ⟨BitVec.eq_of_toNat_eq (by omega), BitVec.eq_of_toNat_eq (by omega)⟩

theorem imageAddr_congr {m m' : Mem} {p : Word} {v0 : Page} {k : Nat}
    (h : Mem.entry m' p (imagePage v0 k) = Mem.entry m p (imagePage v0 k)) :
    Mem.imageAddr m' p v0 k = Mem.imageAddr m p v0 k := by
  rw [Mem.imageAddr, h, Mem.imageAddr]

/-! ## A segment that its process can read -/

/-- The tables are in order, and both pages of the segment from page v0 on are mapped readable for pid p. -/
structure ReadableSegment (m : Mem) (p : Word) (v0 : Page) : Prop where
  tables : TablesInv m
  pages : ∀ v ∈ [v0, v0 + 1], pteValid (Mem.entry m p v) = true ∧ pteReadable (Mem.entry m p v) = true

theorem ReadableSegment.congr {m m' : Mem} {p : Word} {v0 : Page} (h : ReadableSegment m p v0) (ht : TablesInv m')
    (he : ∀ v ∈ [v0, v0 + 1], Mem.entry m' p v = Mem.entry m p v) : ReadableSegment m' p v0 :=
  ⟨ht, fun v hv => by rw [he v hv]; exact h.pages v hv⟩

/-- The pages of a segment that Create allocates are readable (46 R223). -/
theorem readableSegment_of_allocateTwo {m m' : Mem} {p : Word} {v0 : Page} {w : Bool} (hp : p.toNat < 64)
    (ht : TablesInv m) (h3 : ∀ v ∈ [v0, v0 + 1], 3 ≤ v.toNat)
    (e : Mem.allocateTwo m (ptbrOf p) v0 w = .ok m') : ReadableSegment m' p v0 := by
  rcases allocateTwo_cases m (ptbrOf p) v0 w with ⟨_, _, h⟩ | ⟨_, _, _, _, h⟩ | ⟨m1, m2, e1, e2, h⟩ <;>
    rw [h] at e <;> cases e
  obtain ⟨f, _, _, _, hentry1⟩ := allocate_ok hp e1
  obtain ⟨g, _, _, _, hentry2⟩ := allocate_ok hp e2
  have hfirst : Mem.entry m' p v0 = makePte f w true := by
    rw [hentry2 p v0 hp, if_neg fun h => page_ne_succ v0 h.2.symm, hentry1 p v0 hp, if_pos ⟨rfl, rfl⟩]
  have hsecond : Mem.entry m' p (v0 + 1) = makePte g w true := by
    rw [hentry2 p (v0 + 1) hp, if_pos ⟨rfl, rfl⟩]
  refine ⟨(ht.allocate hp (h3 v0 (by simp)) e1).allocate hp (h3 (v0 + 1) (by simp)) e2, fun v hv => ?_⟩
  rcases List.mem_pair.1 hv with rfl | rfl
  · rw [hfirst]
    exact ⟨makePte_valid f w true, makePte_readable f w true⟩
  · rw [hsecond]
    exact ⟨makePte_valid g w true, makePte_readable g w true⟩

section readable
variable {m : Mem} {p : Word} {v0 : Page} (hp : p.toNat < 64) (h : ReadableSegment m p v0)
include hp h

theorem ReadableSegment.imageAddr_ge {k : Nat} (hk : k < 4096) : 0x1800 ≤ (Mem.imageAddr m p v0 k).toNat :=
  physAddr_ge _ (h.tables.mappedUsed p _ hp (h.pages _ (imagePage_mem v0 hk)).1).1

/-- Words of the segments of one process share an address only if they share page and offset: no two pages share a
frame (10 R48 (c)). -/
theorem ReadableSegment.imageAddr_inj {u0 : Page} (h' : ReadableSegment m p u0) {i j : Nat} (hi : i < 4096)
    (hj : j < 4096) (e : Mem.imageAddr m p v0 i = Mem.imageAddr m p u0 j) :
    imagePage v0 i = imagePage u0 j ∧ i % pageWords = j % pageWords := by
  obtain ⟨hpfn, hoff⟩ := physAddr_inj e
  have hmod := congrArg BitVec.toNat hoff
  rw [BitVec.toNat_ofNat, BitVec.toNat_ofNat] at hmod
  simp only [pageWords] at hmod ⊢
  exact ⟨(h.tables.unshared p p _ _ hp hp (h.pages _ (imagePage_mem v0 hi)).1 (h'.pages _ (imagePage_mem u0 hj)).1
    hpfn).2, by omega⟩

/-- A word of the image is stored: no entry changes. -/
theorem ReadableSegment.entry_store {k : Nat} (hk : k < 4096) (w : Word) (v : Page) :
    Mem.entry (Mem.setPhys m (Mem.imageAddr m p v0 k) w) p v = Mem.entry m p v :=
  entry_setPhys_other hp m v w (.inr (h.imageAddr_ge hp hk))

theorem ReadableSegment.store {k : Nat} (hk : k < 4096) (w : Word) :
    ReadableSegment (Mem.setPhys m (Mem.imageAddr m p v0 k) w) p v0 :=
  have hge := h.imageAddr_ge hp hk
  h.congr (h.tables.of_low fun _ ha => phys_setPhys_low hge ha) fun v _ => h.entry_store hp hk w v

end readable

/-! ## Loading an image -/

section load
variable {p : Word} (hp : p.toNat < 64) {v0 : Page}
include hp

/-- Loading the words from k on changes no word but those of the image. -/
theorem loadImageFrom_phys_of_ne {a : Word} (img : List Word) : ∀ {m : Mem} {k : Nat}, ReadableSegment m p v0 →
    k + img.length ≤ 4096 → (∀ i, k ≤ i → i < 4096 → a ≠ Mem.imageAddr m p v0 i) →
      Mem.phys (Mem.loadImageFrom m (ptbrOf p) v0 k img) a = Mem.phys m a := by
  induction img with
  | nil => exact fun _ _ _ => rfl
  | cons w img ih =>
    intro m k h hlen hne
    rw [List.length_cons] at hlen
    have hk : k < 4096 := by omega
    rw [loadImageFrom_cons, ih (h.store hp hk w) (by omega) fun i hi hi' => ?_,
      Mem.phys_setPhys_of_ne _ _ (hne k le_rfl hk)]
    rw [imageAddr_congr (h.entry_store hp hk w _)]
    exact hne i (by omega) hi'

/-- Loading the words from k on puts each at its place (46 R224). -/
theorem loadImageFrom_phys_imageAddr {w : Word} (img : List Word) : ∀ {m : Mem} {k j : Nat},
    ReadableSegment m p v0 → k + img.length ≤ 4096 → img[j]? = some w →
      Mem.phys (Mem.loadImageFrom m (ptbrOf p) v0 k img) (Mem.imageAddr m p v0 (k + j)) = w := by
  induction img with
  | nil => exact fun _ _ hj => nomatch hj
  | cons x img ih =>
    intro m k j h hlen hj
    rw [List.length_cons] at hlen
    have hk : k < 4096 := by omega
    have hsame (i : Nat) : Mem.imageAddr (Mem.setPhys m (Mem.imageAddr m p v0 k) x) p v0 i = Mem.imageAddr m p v0 i :=
      imageAddr_congr (h.entry_store hp hk x _)
    rw [loadImageFrom_cons]
    cases j with
    | zero =>
      obtain rfl : x = w := by simpa using hj
      rw [Nat.add_zero]
      refine (loadImageFrom_phys_of_ne hp img (h.store hp hk x) (by omega) fun i hi hi' e => ?_).trans
        (Mem.phys_setPhys_self _ _ _)
      rw [hsame] at e
      obtain ⟨hpage, hmod⟩ := h.imageAddr_inj hp h hk hi' e
      have := imagePage_inj hk hi' hpage hmod
      omega
    | succ j =>
      have hrest := ih (k := k + 1) (j := j) (h.store hp hk x) (by omega) (by simpa using hj)
      rwa [hsame, Nat.add_right_comm] at hrest

end load

/-- The segment from page v0 on of pid p holds the image, readable for its process. -/
structure HoldsImage (m : Mem) (p : Word) (v0 : Page) (img : List Word) : Prop where
  segment : ReadableSegment m p v0
  length : img.length ≤ 4096
  words : ∀ k w, img[k]? = some w → Mem.phys m (Mem.imageAddr m p v0 k) = w

theorem HoldsImage.lt {m : Mem} {p : Word} {v0 : Page} {img : List Word} (h : HoldsImage m p v0 img) {k : Nat}
    {w : Word} (hk : img[k]? = some w) : k < 4096 := by
  obtain ⟨hlt, _⟩ := List.getElem?_eq_some_iff.1 hk
  exact lt_of_lt_of_le hlt h.length

theorem HoldsImage.congr {m m' : Mem} {p : Word} {v0 : Page} {img : List Word} (h : HoldsImage m p v0 img)
    (ht : TablesInv m') (he : ∀ v ∈ [v0, v0 + 1], Mem.entry m' p v = Mem.entry m p v)
    (hw : ∀ k < 4096, Mem.phys m' (Mem.imageAddr m p v0 k) = Mem.phys m (Mem.imageAddr m p v0 k)) :
    HoldsImage m' p v0 img := by
  refine ⟨h.segment.congr ht he, h.length, fun k w hk => ?_⟩
  rw [imageAddr_congr (he _ (imagePage_mem v0 (h.lt hk))), hw k (h.lt hk), h.words k w hk]

/-- A write of one of the three OS words before the bitmap leaves the image. -/
theorem HoldsImage.setPhys_os {m : Mem} {p : Word} {v0 : Page} {img : List Word} (h : HoldsImage m p v0 img)
    (hp : p.toNat < 64) {a : Word} (w : Word) (ha : a.toNat < 3) : HoldsImage (Mem.setPhys m a w) p v0 img :=
  h.congr
    (h.segment.tables.setPhys_other w (word_ne_of_toNat (by simp; omega)) (word_ne_of_toNat (by simp; omega))
      (.inl (by omega)))
    (fun v _ => entry_setPhys_other hp m v w (.inl (by omega)))
    fun _ hk => phys_setPhys_high (by omega) (h.segment.imageAddr_ge hp hk)

section load
variable {m : Mem} {p : Word} {v0 : Page} {img : List Word} (hp : p.toNat < 64) (h : ReadableSegment m p v0)
  (hlen : img.length ≤ 4096)
include hp h hlen

/-- Loading an image changes no word below frame 3. -/
theorem ReadableSegment.loadImage_low {a : Word} (ha : a.toNat < 0x1800) :
    Mem.phys (Mem.loadImage m img (ptbrOf p) v0) a = Mem.phys m a :=
  Machine.loadImage_low hp h.tables ⟨(h.pages _ (by simp)).1, (h.pages _ (by simp)).1⟩ hlen a ha

/-- After an image is loaded its segment holds it. -/
theorem ReadableSegment.holds_loadImage : HoldsImage (Mem.loadImage m img (ptbrOf p) v0) p v0 img := by
  have hentry (v : Page) : Mem.entry (Mem.loadImage m img (ptbrOf p) v0) p v = Mem.entry m p v :=
    h.loadImage_low hp hlen (pteAddr_bounds hp v).2
  refine ⟨h.congr (h.tables.of_low fun _ => h.loadImage_low hp hlen) fun v _ => hentry v, hlen, fun k w hk => ?_⟩
  rw [imageAddr_congr (hentry _)]
  have hword := loadImageFrom_phys_imageAddr hp img h (k := 0) (by omega) hk
  rwa [Nat.zero_add] at hword

/-- A segment with other pages keeps its image. -/
theorem ReadableSegment.loadImage_keeps {u0 : Page} {other : List Word} (h' : HoldsImage m p u0 other)
    (hne : ∀ v ∈ [u0, u0 + 1], v ∉ [v0, v0 + 1]) : HoldsImage (Mem.loadImage m img (ptbrOf p) v0) p u0 other := by
  refine h'.congr (h.tables.of_low fun _ => h.loadImage_low hp hlen)
    (fun v _ => h.loadImage_low hp hlen (pteAddr_bounds hp v).2)
    fun k hk => loadImageFrom_phys_of_ne hp img h (by omega) fun i _ hi e => ?_
  have hpage := (h'.segment.imageAddr_inj hp h hk hi e).1
  exact hne _ (imagePage_mem u0 hk) (hpage ▸ imagePage_mem v0 hi)

end load

/-- Allocating the pages of another segment leaves the image. -/
theorem HoldsImage.allocateTwo {m m' : Mem} {p : Word} {v0 u0 : Page} {img : List Word} {w : Bool} (hp : p.toNat < 64)
    (h : HoldsImage m p v0 img) (ht : TablesInv m') (hne : ∀ v ∈ [v0, v0 + 1], v ∉ [u0, u0 + 1])
    (e : Mem.allocateTwo m (ptbrOf p) u0 w = .ok m') : HoldsImage m' p v0 img := by
  refine h.congr ht (fun v hv => (allocateTwo_tableOnly e).entry hp hp fun _ => hne v hv) fun k hk => ?_
  have hge := h.segment.imageAddr_ge hp hk
  rcases allocateTwo_cases m (ptbrOf p) u0 w with ⟨_, _, h⟩ | ⟨_, _, _, _, h⟩ | ⟨m1, m2, e1, e2, h⟩ <;>
    rw [h] at e <;> cases e
  rw [allocate_phys_high hp e2 hge, allocate_phys_high hp e1 hge]

/-- A process that is built holds both its images (46 R223, R224). -/
theorem buildProcess_holds {m m' : Mem} {n : Word} {code heap : List Word} (hn : n.toNat < 64) (ht : TablesInv m)
    (hcode : code.length ≤ 4096) (hheap : heap.length ≤ 4096) (e : Mem.buildProcess m n code heap = .ok m') :
    HoldsImage m' n codeVpn code ∧ HoldsImage m' n heapVpn heap := by
  rcases buildProcess_cases m n code heap with ⟨_, _, h⟩ | ⟨_, _, _, _, h⟩ | ⟨m1, m2, e1, e2, h⟩ <;>
    rw [h] at e <;> cases e
  have hsegCode : ReadableSegment m1 n codeVpn :=
    readableSegment_of_allocateTwo hn (building_writePcb hn ht).tables (by decide) e1
  have hloaded := hsegCode.holds_loadImage hn hcode
  have hsegHeap : ReadableSegment m2 n heapVpn :=
    readableSegment_of_allocateTwo hn hloaded.segment.tables (by decide) e2
  have hkept := hloaded.allocateTwo hn hsegHeap.tables (by decide) e2
  exact ⟨hsegHeap.loadImage_keeps hn hheap hkept (by decide), hsegHeap.holds_loadImage hn hheap⟩

/-! ## Reading an image through the translator -/

theorem segment_vpnOf {v0 : Page} {k : Nat} (hk : k < 4096) :
    vpnOf (physAddr v0 0 + BitVec.ofNat 16 k) = imagePage v0 k := by
  have hv := v0.isLt
  apply BitVec.eq_of_toNat_eq
  rw [vpnOf_toNat, imagePage, BitVec.toNat_add, BitVec.toNat_add, physAddr_toNat]
  simp only [BitVec.toNat_ofNat, BitVec.ofNat_eq_ofNat, pageWords]
  omega

theorem segment_offsetOf {v0 : Page} {k : Nat} :
    offsetOf (physAddr v0 0 + BitVec.ofNat 16 k) = BitVec.ofNat 11 (k % pageWords) := by
  apply BitVec.eq_of_toNat_eq
  rw [offsetOf_toNat, BitVec.toNat_add, physAddr_toNat]
  simp only [BitVec.toNat_ofNat, BitVec.ofNat_eq_ofNat, pageWords]
  omega

/-- Under the table of its process, word k of an image is read at the start of its segment plus k (46 R224). -/
theorem HoldsImage.memRead {s : State} {p : Word} {v0 : Page} {img : List Word} (h : HoldsImage s.mem p v0 img)
    (hp : p.toNat < 64) (hptbr : s.ptbr = ptbrOf p) {start : Word} (hstart : start = physAddr v0 0) {k : Nat} {w : Word}
    (hk : img[k]? = some w) : s.memRead (start + BitVec.ofNat 16 k) = .ok w := by
  subst hstart
  have hlt := h.lt hk
  obtain ⟨hvalid, hreadable⟩ := h.segment.pages _ (imagePage_mem v0 hlt)
  refine (s.memRead_ok_iff _ w).2 ⟨Mem.imageAddr s.mem p v0 k, ?_, (h.words k w hk).symm⟩
  rw [State.translate_ok_iff, segment_vpnOf hlt, segment_offsetOf, hptbr]
  refine ⟨?_, hvalid, hreadable, rfl⟩
  rw [← Bool.not_eq_true, isReservedPage_iff]
  intro h3
  rw [h.segment.tables.reservedUnmapped p _ hp h3] at hvalid
  cases hvalid

/-! ## Create after Reset -/

/-- While the first process is built a frame is left: it maps at most the four segment pages, and 29 frames are
allocatable. -/
theorem exists_isFree_of_building_reset {n : Word} {m : Mem} (hn : n.toNat < 64)
    (hb : Building n (Mem.writePcb State.reset.mem n) m) : ∃ f, Mem.isFree m f = true := by
  by_contra hnone
  have hmapped : ∀ f : Page, 3 ≤ f.toNat → f ∈ segmentPages.map fun v => ptePfn (Mem.entry m n v) := by
    intro f h3
    obtain ⟨p, v, hp, hv, hpfn⟩ := hb.tables.usedMapped f h3 (Bool.eq_false_iff.2 fun hf => hnone ⟨f, hf⟩)
    by_cases hseg : n = p ∧ v ∈ segmentPages
    · obtain ⟨rfl, hmem⟩ := hseg
      exact List.mem_map.2 ⟨v, hmem, hpfn⟩
    · rw [hb.entry hn hp fun hnp hmem => hseg ⟨hnp, hmem⟩, State.reset_unmapped hp] at hv
      cases hv
  have hfive : ([3, 4, 5, 6, 7] : List Page) ⊆ segmentPages.map fun v => ptePfn (Mem.entry m n v) :=
    fun f hf => hmapped f ((by decide : ∀ f ∈ ([3, 4, 5, 6, 7] : List Page), 3 ≤ f.toNat) f hf)
  have hnodup : ([3, 4, 5, 6, 7] : List Page).Nodup := by decide
  have hlen := (hnodup.subperm hfive).length_le
  simp at hlen

/-- After Reset a process is built. -/
theorem buildProcess_reset {code heap : List Word} (hcode : code.length ≤ 4096) (hheap : heap.length ≤ 4096) :
    ∃ m, Mem.buildProcess State.reset.mem 0 code heap = .ok m := by
  cases e : Mem.buildProcess State.reset.mem 0 code heap with
  | ok m => exact ⟨m, rfl⟩
  | error fm =>
    have hzero : (0 : Word).toNat < 64 := by decide
    obtain ⟨f, hf⟩ := exists_isFree_of_building_reset hzero
      (building_of_error hzero tablesInv_reset hcode hheap (f := fm.1) (m' := fm.2) e)
    have hnone := (buildProcess_error hzero tablesInv_reset hcode
      (fun v _ => State.reset_unmapped hzero v) (f := fm.1) (m' := fm.2) e).2 f
    cases hf.symm.trans hnone

/-- The PCB of a process that is built: its pid, the code entry, its table (46 R223). -/
theorem Building.newPcb {n : Word} {m m' : Mem} (hn : n.toNat < 64) (h : Building n (Mem.writePcb m n) m') :
    Mem.pcbPid m' n = n ∧ Mem.pcbPc m' n = 0x3000 ∧ Mem.pcbPtbr m' n = ptbrOf n := by
  have hpcb {k : Word} (hk : k.toNat < 3) : Mem.phys m' (pcbAddr n k) = Mem.phys (Mem.writePcb m n) (pcbAddr n k) :=
    h.only.phys_pcb hn hn hk
  rw [Mem.pcbPid, Mem.pcbPc, Mem.pcbPtbr, hpcb (by decide), hpcb (by decide), hpcb (by decide)]
  simp [Mem.writePcb, pcbAddr_eq_iff hn hn]

/-- What memory holds after Create on the reset machine (46 R223, R229). -/
structure FirstCreated (code heap : List Word) (m : Mem) : Prop where
  count : Mem.procCount m = 1
  pid : Mem.pcbPid m 0 = 0
  pc : Mem.pcbPc m 0 = 0x3000
  ptbr : Mem.pcbPtbr m 0 = ptbrOf 0
  code : HoldsImage m 0 codeVpn code
  heap : HoldsImage m 0 heapVpn heap

/-- Create on the reset machine returns pid 0. -/
theorem create_reset {code heap : List Word} (hcode : code.length ≤ 4096) (hheap : heap.length ≤ 4096) :
    ∃ m, State.reset.create code heap = (some 0, State.reset.setMem m) ∧ FirstCreated code heap m := by
  have hzero : (0 : Word).toNat < 64 := by decide
  obtain ⟨m, hbuild⟩ := buildProcess_reset hcode hheap
  obtain ⟨hcodeHeld, hheapHeld⟩ := buildProcess_holds hzero tablesInv_reset hcode hheap hbuild
  obtain ⟨hpid, hpc, hptbr⟩ := (building_of_ok hzero tablesInv_reset hcode hheap hbuild).newPcb hzero
  have hpcb {k : Word} (hk : k.toNat < 3) :
      Mem.phys (Mem.setPhys m config.procCountAddr (0 + 1)) (pcbAddr 0 k) = Mem.phys m (pcbAddr 0 k) :=
    Mem.phys_setPhys_of_ne _ _ (pcbAddr_ne hzero hk (.inl (by decide))).symm
  refine ⟨Mem.setPhys m config.procCountAddr (0 + 1), ?_, Mem.phys_setPhys_self _ _ _, (hpcb (by decide)).trans hpid,
    (hpcb (by decide)).trans hpc, (hpcb (by decide)).trans hptbr, hcodeHeld.setPhys_os hzero _ (by decide),
    hheapHeld.setPhys_os hzero _ (by decide)⟩
  rcases State.reset.create_cases code heap with ⟨hfull, _⟩ | ⟨m', _, hbuild', hc⟩ | ⟨f, m', _, hbuild', _⟩
  · cases hfull
  · rw [State.reset_procCount, hbuild] at hbuild'
    cases hbuild'
    rw [hc, State.reset_procCount]
  · rw [State.reset_procCount, hbuild] at hbuild'
    cases hbuild'

/-! ## The boot commands, where they are accepted (70 R306) -/

section accepted
variable {s : State} (h : s.acceptsBoot = true)
include h

theorem hostAct_create {code heap : List Word} (hcode : code.length ≤ 4096) (hheap : heap.length ≤ 4096) :
    hostAct (.create code heap) s = .next (createReply (s.create code heap).1, (s.create code heap).2) := by
  have hlen : ¬ (config.segMaxWords < code.length ∨ config.segMaxWords < heap.length) := by
    rw [config_segMaxWords]
    omega
  rw [hostAct, h, if_neg hlen]
  rfl

theorem hostAct_load {pid : Word} (hlive : s.isLivePid pid = true) :
    hostAct (.load pid) s = .next (.done, s.hostLoad pid) := by
  rw [hostAct, h, hlive]
  rfl

theorem hostAct_start (hl : s.phase = .loaded) : hostAct .start s = .next (.done, s.hostStart) := by
  rw [hostAct, h, hl]
  rfl

end accepted

/-- Load and Start write `CUR_PID` only, which is no word of a segment (46 R226). -/
theorem HoldsImage.boot {s : State} {p : Word} {v0 : Page} {img : List Word} (h : HoldsImage s.mem p v0 img)
    (hp : p.toNat < 64) (pid : Word) : HoldsImage (s.hostLoad pid).hostStart.mem p v0 img :=
  h.setPhys_os hp (a := config.curPidAddr) pid (by decide)

/-- Settles O58: the new process holds its images; Load takes RPC and PTBR from its PCB, and neither Load nor Start
changes a word of the segments. -/
theorem createdProcessReadsItsImages : Obligations.CreatedProcessReadsItsImages := by
  intro code heap hcode hheap
  have hzero : (0 : Word).toNat < 64 := by decide
  obtain ⟨m, hcreate, h⟩ := create_reset hcode hheap
  have hlive : (State.reset.setMem m).isLivePid 0 = true :=
    (State.isLivePid_iff _ 0).2 ⟨by rw [State.setMem_mem, h.count]; decide, h.pid⟩
  have hcodeHeld := HoldsImage.boot (s := State.reset.setMem m) h.code hzero 0
  have hheapHeld := HoldsImage.boot (s := State.reset.setMem m) h.heap hzero 0
  refine ⟨_, _, _, ?_, hostAct_load rfl hlive, hostAct_start rfl rfl, rfl, h.pc, h.ptbr,
    fun k w => hcodeHeld.memRead hzero h.ptbr (by decide), fun k w => hheapHeld.memRead hzero h.ptbr (by decide)⟩
  rw [hostAct_create rfl hcode hheap, hcreate]
  rfl

end Sys2Proof.Machine
end

section
/-! Proofs about the scheduler (spec 47): its scan over no processes stops, and no step brings a terminated process
back. -/

namespace Sys2Proof.Machine

/-! ## The scan over no processes (47 R241) -/

theorem scanDefined_ne_true {s : State} (h : s.phys 1 = 0) : s.scanDefined ≠ true :=
  fun e => bne_iff_ne.1 e h

/-- Settles O37: neither the save nor the termination writes `PROC_COUNT`, so the total is still 0 at the scan. -/
theorem scanOverNoProcessesStops : Obligations.ScanOverNoProcessesStops := by
  intro s hcount hcur
  refine ⟨?_, fun p hp hptbr => ?_⟩
  · have hsaved : (s.save (Mem.curPid s.mem)).phys 1 = s.phys 1 := phys_save hcur (.inl (by decide))
    exact if_neg (scanDefined_ne_true (hsaved.trans hcount))
  · have hkept : s.terminate.phys 1 = s.phys 1 := phys_terminate_lt_three hcur hp hptbr (by decide)
    exact if_neg (scanDefined_ne_true (hkept.trans hcount))

/-! ## Terminated slots (47 R244, R245) -/

theorem procState_eq_terminated_iff (s : State) (p : Word) :
    s.procState p = .terminated ↔ p.toNat < s.count ∧ Mem.pcbPid s.mem p = noPid := by
  rw [State.procState, ← not_le]
  split_ifs with hge hdead hrunning
  · exact iff_of_false nofun fun h => h.1 hge
  · exact iff_of_true rfl ⟨hge, hdead⟩
  · exact iff_of_false nofun fun h => hdead h.2
  · exact iff_of_false nofun fun h => hdead h.2

/-- The change keeps `PROC_COUNT`, `OS_STATUS` and every mark of termination. -/
structure KeepsTerminated (m m' : Mem) : Prop where
  count : Mem.procCount m' = Mem.procCount m
  status : Mem.osStatus m' = Mem.osStatus m
  dead : ∀ p : Word, p.toNat < 64 → Mem.pcbPid m p = noPid → Mem.pcbPid m' p = noPid

theorem KeepsTerminated.refl (m : Mem) : KeepsTerminated m m := ⟨rfl, rfl, fun _ _ h => h⟩

theorem KeepsTerminated.trans {m1 m2 m3 : Mem} (h : KeepsTerminated m1 m2) (h' : KeepsTerminated m2 m3) :
    KeepsTerminated m1 m3 :=
  ⟨h'.count.trans h.count, h'.status.trans h.status, fun p hp hd => h'.dead p hp (h.dead p hp hd)⟩

theorem SamePcbs.keepsTerminated {m m' : Mem} (h : SamePcbs m m') (h1 : Mem.phys m' 1 = Mem.phys m 1)
    (h2 : Mem.phys m' 2 = Mem.phys m 2) : KeepsTerminated m m' :=
  ⟨h1, h2, fun p hp hd => (h.pid p hp).trans hd⟩

/-- Changes to the bitmap and to the table of a pid terminate nobody and revive nobody. -/
theorem TableOnly.keepsTerminated {p : Word} {vs : List Page} {m m' : Mem} (h : TableOnly p vs m m')
    (hp : p.toNat < 64) : KeepsTerminated m m' :=
  (h.samePcbs hp).keepsTerminated (h.phys_lt_three hp (by decide)) (h.phys_lt_three hp (by decide))

/-- A Load writes `CUR_PID` only. -/
theorem keepsTerminated_load (s : State) (p : Word) : KeepsTerminated s.mem (s.load p).mem :=
  (samePcbs_setPhys s.mem p (by decide)).keepsTerminated (Mem.phys_setPhys_of_ne _ _ (by decide))
    (Mem.phys_setPhys_of_ne _ _ (by decide))

section running
variable {s : State} (h : s.OsInv) (hr : s.run = true)
include h hr

/-- BRK changes the bitmap and one entry of the running process's table (44 R191). -/
theorem heapBreak_tableOnly :
    TableOnly (Mem.curPid s.mem) [brkVpn (s.reg trapReg)] s.mem s.heapBreak.mem := by
  have hptbr := (h.currentLive hr).ptbr_eq
  rcases heapBreak_cases s with ⟨_, e⟩ | ⟨m, hm, _, _, e⟩ | ⟨m, hm, _, e⟩ <;> rw [e]
  · exact .refl _ _ _
  · rw [hptbr] at hm
    exact allocate_tableOnly (List.mem_singleton_self _) hm
  · rw [hptbr] at hm
    rw [← freeQuiet_eq_of_free hm]
    exact freeQuiet_tableOnly s.mem (List.mem_singleton_self _)

/-- Yield saves, which writes no pid word, and perhaps loads (47 R242). -/
theorem keepsTerminated_yield : KeepsTerminated s.mem s.yield.mem := by
  have hcur := h.currentLive hr
  have hlt := hcur.lt h.slots
  have hsave := (samePcbs_save h.slots hcur).keepsTerminated (phys_save hlt (.inl (by decide)))
    (phys_save hlt (.inl (by decide)))
  rcases yield_cases s with e | ⟨next, _, _, e⟩ <;> rw [e]
  · exact hsave
  · exact hsave.trans (keepsTerminated_load _ next)

/-- The termination of the running process writes one pid word, and that with the mark (47 R243). -/
theorem keepsTerminated_terminate : KeepsTerminated s.mem s.terminate.mem := by
  have hcur := h.currentLive hr
  have hlt := hcur.lt h.slots
  refine ⟨phys_terminate_lt_three hlt hlt hcur.ptbr_eq (by decide),
    phys_terminate_lt_three hlt hlt hcur.ptbr_eq (by decide), fun p hp hdead => ?_⟩
  by_cases hself : p = s.phys 0
  · rw [hself, ← pidWord_eq]
    exact (haltsCaller_terminate hlt hlt hcur.ptbr_eq).pid
  · exact (terminate_pcb hlt hlt hcur.ptbr_eq hp (by decide) hself).trans hdead

/-- Halt terminates, then loads or stops (47 R243). -/
theorem keepsTerminated_halt : KeepsTerminated s.mem s.halt.mem := by
  have hterm := keepsTerminated_terminate h hr
  rcases halt_cases s with ⟨_, e⟩ | ⟨next, _, e⟩ <;> rw [e]
  · exact hterm
  · exact hterm.trans (keepsTerminated_load _ next)

/-- Every instruction a running process executes keeps the terminated processes terminated. -/
theorem keepsTerminated_exec {i : Instr} {t : State} (e : exec i s = .next t) : KeepsTerminated s.mem t.mem := by
  have hlt := (h.currentLive hr).lt h.slots
  rcases exec_cases e with hreg | ⟨_, _, pa, v, hpa, rfl⟩ | ⟨_, _, rfl⟩ | ⟨_, _, rfl⟩ | ⟨_, rfl⟩
  · rw [hreg.mem]
    exact .refl _
  · have hstore : TableOnly (Mem.curPid s.mem) [] s.mem (s.setPhys pa v).mem :=
      .of_low fun _ ha => phys_setPhys_low (h.translate_ge hr hpa) ha
    exact hstore.keepsTerminated hlt
  · exact keepsTerminated_yield h hr
  · exact keepsTerminated_halt h hr
  · exact (heapBreak_tableOnly h hr).keepsTerminated hlt

end running

theorem keepsTerminated_step {s t : State} (h : s.OsInv) (e : step s = .next t) : KeepsTerminated s.mem t.mem := by
  rcases step_cases e with ⟨_, rfl⟩ | ⟨_, _, _, rfl⟩ | ⟨hrun, _, _, he⟩
  · exact .refl _
  · exact .refl _
  · have hadvance : s.advance.OsInv := h.of_low (fun _ _ => rfl) rfl id
    exact keepsTerminated_exec hadvance (State.run_of_engineRuns hrun) he

/-- Settles O54: the only pid word a step writes is that of the process it terminates. -/
theorem terminatedIsAbsorbing : Obligations.TerminatedIsAbsorbing := by
  intro s t p h e
  obtain ⟨hcount, hstatus, hdead⟩ := keepsTerminated_step h e
  have htotal : t.count = s.count := congrArg BitVec.toNat hcount
  refine ⟨htotal, hstatus, fun hp => ?_⟩
  rw [procState_eq_terminated_iff] at hp ⊢
  obtain ⟨hlt, hmark⟩ := hp
  exact ⟨htotal ▸ hlt, hdead p (lt_of_lt_of_le hlt h.count) hmark⟩

end Sys2Proof.Machine
end

section
/-! What reaches the words of the OS (60 R275), and how a run ends (70 R312): a step clears RUN by a fault, or by a HALT
that leaves no live process and with it no mapped page. -/

namespace Sys2Proof.Machine

/-! ## The OS frames -/

/-- Settles O50: an instruction other than the three OS traps writes memory by a store only, and the translator answers
no address in the OS frames. -/
theorem onlyOsTrapsChangeOsMemory : Obligations.OnlyOsTrapsChangeOsMemory := by
  intro i s t h hr hyld hbrk hhalt e a ha
  rcases exec_cases e with hreg | ⟨_, _, _, _, hpa, rfl⟩ | ⟨hi, _⟩ | ⟨hi, _⟩ | ⟨hi, _⟩
  · exact congrArg (Mem.phys · a) hreg.mem
  · exact phys_setPhys_low (h.translate_ge hr hpa) ha
  · exact absurd hi hyld
  · exact absurd hi hhalt
  · exact absurd hi hbrk

/-! ## Instructions that clear RUN -/

/-- RUN is as it was, or there has been a fault. -/
abbrev RunsOnOrFaulted (s t : State) : Prop := t.run = s.run ∨ t.Faulted

section execute
variable {s t : State} (hf : s.fault = 0)
include hf

theorem faulted_raise (f : Raised) : (s.raise f).Faulted := by
  rw [State.Faulted, State.raise_fault, if_pos hf]
  cases f.code <;> decide

theorem finishLoad_runsOnOrFaulted {dr : Reg} {r : Except Raised Word} (h : s.finishLoad dr r = .next t) :
    RunsOnOrFaulted s t := by
  cases r <;> cases h
  · exact .inr (faulted_raise hf _)
  · exact .inl rfl

theorem store_runsOnOrFaulted {va v : Word} (h : s.finishStore (s.memWrite va v) = .next t) :
    RunsOnOrFaulted s t := by
  unfold State.memWrite at h
  split at h <;> cases h
  · exact .inr (faulted_raise hf _)
  · exact .inl rfl

theorem storeIndirect_runsOnOrFaulted {va v : Word} (h : s.finishStore (s.writeIndirect va v) = .next t) :
    RunsOnOrFaulted s t := by
  unfold State.writeIndirect at h
  split at h
  · cases h
    exact .inr (faulted_raise hf _)
  · exact store_runsOnOrFaulted hf h

/-- Only HALT clears RUN without a fault (10 R30). -/
theorem exec_runsOnOrFaulted {i : Instr} (hi : i ≠ .halt) (h : exec i s = .next t) : RunsOnOrFaulted s t := by
  cases i <;> simp only [exec] at h
  case add | addi | and | andi | not | lea | jmp | jsr | jsrr | rsv8 | rsv13 | out | putsp | outu16 =>
    cases h
    exact .inl rfl
  case br => cases h; left; split_ifs <;> rfl
  case ld | ldi | ldr => exact finishLoad_runsOnOrFaulted hf h
  case st | str => exact store_runsOnOrFaulted hf h
  case sti => exact storeIndirect_runsOnOrFaulted hf h
  case getc | inu16 | inEcho =>
    obtain ⟨_, _, _, hrun⟩ := conIn_registersOnly s
    cases h
    exact .inl hrun
  case puts =>
    unfold execPuts at h
    split at h <;> cases h
    · exact .inl rfl
    · exact .inr (faulted_raise (s := s.emit _) hf _)
  case trapIllegal => cases h; exact .inr (faulted_raise hf _)
  case yld =>
    unfold execYld at h
    split_ifs at h
    cases h
    left
    rcases yield_cases s with e | ⟨_, _, _, e⟩ <;> rw [e]
    · exact s.save_run _
    · rw [State.load_run, State.save_run]
  case halt => exact absurd rfl hi
  case brk =>
    cases h
    rcases heapBreak_cases s with ⟨_, e⟩ | ⟨_, _, _, _, e⟩ | ⟨_, _, _, e⟩ <;> rw [e] <;> exact .inl rfl

end execute

/-! ## The scan that finds nobody (47 R241) -/

/-- The candidates of a scan are all pids below `PROC_COUNT`. -/
theorem exists_candidate_eq {m : Mem} {cur p : Word} (hcur : cur.toNat < (Mem.procCount m).toNat)
    (hp : p.toNat < (Mem.procCount m).toNat) : ∃ k < (Mem.procCount m).toNat, Mem.candidate m cur k = p := by
  obtain ⟨k, hk, hsum⟩ : ∃ k < (Mem.procCount m).toNat,
      cur.toNat + 1 + k = p.toNat ∨ cur.toNat + 1 + k = p.toNat + (Mem.procCount m).toNat := by
    rcases lt_or_ge cur.toNat p.toNat with hlt | hge
    · exact ⟨p.toNat - cur.toNat - 1, by omega, by omega⟩
    · exact ⟨p.toNat + (Mem.procCount m).toNat - cur.toNat - 1, by omega, by omega⟩
  have hmod : (cur.toNat + 1 + k) % (Mem.procCount m).toNat = p.toNat := by
    rcases hsum with e | e <;> simp [e, Nat.mod_eq_of_lt hp]
  exact ⟨k, hk, by simp [Mem.candidate, hmod]⟩

theorem pcbPid_eq_noPid_of_nextRunnable_none {m : Mem} {cur p : Word} (h : Mem.nextRunnable m cur = none)
    (hcur : cur.toNat < (Mem.procCount m).toNat) (hp : p.toNat < (Mem.procCount m).toNat) :
    Mem.pcbPid m p = noPid := by
  obtain ⟨k, hk, rfl⟩ := exists_candidate_eq hcur hp
  exact (nextRunnable_none_iff m cur).1 h k hk

/-! ## The end of a run (70 R312) -/

/-- The word of the bitmap that holds a frame's bit is made of the bits of its sixteen frames. -/
theorem phys_bitmapAddrOf_congr {m m' : Mem} (h : ∀ f, Mem.isFree m' f = Mem.isFree m f) (f : Page) :
    Mem.phys m' (bitmapAddrOf f) = Mem.phys m (bitmapAddrOf f) := by
  refine BitVec.eq_of_getLsbD_eq fun j hj => ?_
  obtain ⟨g, hg⟩ : ∃ g : Page, g.toNat = f.toNat / 16 * 16 + j :=
    ⟨BitVec.ofNat 5 (f.toNat / 16 * 16 + j), by rw [BitVec.toNat_ofNat]; omega⟩
  have haddr : bitmapAddrOf g = bitmapAddrOf f := by
    rw [bitmapAddrOf, bitmapAddrOf, show g.toNat / 16 = f.toNat / 16 by omega]
  have hbit := h g
  rwa [isFree_eq, isFree_eq, haddr, show g.toNat % 16 = j by omega] at hbit

/-- Where no page is mapped the bitmap is as after Reset. -/
theorem TablesInv.bitmap_of_unmapped {m : Mem} (h : TablesInv m)
    (hun : ∀ (p : Word) (v : Page), p.toNat < 64 → pteValid (Mem.entry m p v) = false) :
    Mem.phys m 3 = 0xFFF8 ∧ Mem.phys m 4 = 0xFFFF := by
  have hfree := tablesInv_reset.isFree_congr h (fun p v hp => (hun p v hp).trans (State.reset_unmapped hp v).symm)
    fun p v hp hv => absurd hv (by simp [State.reset_unmapped hp v])
  exact ⟨(phys_bitmapAddrOf_congr hfree 0).trans (State.reset_phys 3),
    (phys_bitmapAddrOf_congr hfree 16).trans (State.reset_phys 4)⟩

/-- A stopped machine in which every created process is terminated has ended its run well. -/
theorem State.OsInv.endedWell {s : State} (h : s.OsInv) (hs : s.Stopped)
    (hdead : ∀ p : Word, p.toNat < s.count → Mem.pcbPid s.mem p = noPid) : s.EndedWell := by
  have hun : ∀ (p : Word) (v : Page), p.toNat < 64 → pteValid (Mem.entry s.mem p v) = false := fun p v hp => by
    refine Bool.eq_false_iff.2 fun hv => ?_
    obtain ⟨hlt, hlive⟩ := h.slots.mappedLive p v hp hv
    exact hlive (hdead p hlt)
  refine ⟨hs, fun p hp => (pidWord_eq s p).trans (hdead p hp), fun p v hp => ?_, h.tables.bitmap_of_unmapped hun⟩
  rw [maps_iff, Bool.not_eq_true]
  exact hun p v hp

@[simp] theorem State.terminate_run (s : State) : s.terminate.run = s.run := rfl
@[simp] theorem State.terminate_fault (s : State) : s.terminate.fault = s.fault := rfl
@[simp] theorem State.terminate_phase (s : State) : s.terminate.phase = s.phase := rfl

section running
variable {s t : State} (h : s.MachineInv) (hr : s.run = true) (hf : s.fault = 0) (ht : t.run = false)
include h hr hf ht

/-- A HALT that clears RUN has scanned all pids and found none live (47 R243). -/
theorem State.MachineInv.endedWell_of_halt (e : exec .halt s = .next t) : t.EndedWell := by
  have hcur := h.os.currentLive hr
  have hlt := hcur.lt h.os.slots
  have hos := h.os.exec hr e
  obtain rfl : s.halt = t :=
    Host.Outcome.next.inj ((exec_halt h.os.count hcur.lt_count hlt hcur.ptbr_eq).symm.trans e)
  rcases halt_cases s with ⟨hnone, hhalt⟩ | ⟨next, _, hhalt⟩ <;> rw [hhalt] at hos ht ⊢
  · have hcount : Mem.procCount s.terminate.mem = Mem.procCount s.mem :=
      phys_terminate_lt_three hlt hlt hcur.ptbr_eq (by decide)
    refine hos.endedWell ⟨⟨?_, rfl⟩, ?_⟩ fun p hp => ?_
    · rw [State.setRun_phase, State.terminate_phase, h.runs hr]
    · rw [State.setRun_fault, State.terminate_fault, hf]
    · exact pcbPid_eq_noPid_of_nextRunnable_none hnone (by rw [State.setRun_mem, hcount]; exact hcur.lt_count) hp
  · rw [State.load_run, State.terminate_run, hr] at ht
    cases ht

/-- A step that clears RUN has raised a fault or executed such a HALT. -/
theorem State.MachineInv.ended_of_step (e : Machine.step s = .next t) : t.EndedWell ∨ t.EndedBadly := by
  have hended {u : State} (hphase : u.phase = s.phase) (hrun : u.run = false) : u.Ended :=
    ⟨hphase.trans (h.runs hr), hrun⟩
  rcases step_cases e with ⟨_, rfl⟩ | ⟨_, f, _, rfl⟩ | ⟨_, w, _, he⟩
  · exact absurd (hr.symm.trans ht) (by decide)
  · exact .inr ⟨hended rfl rfl, faulted_raise hf f⟩
  · by_cases hi : decode w = .halt
    · have hadvance : s.advance.MachineInv := ⟨h.os.of_low (fun _ _ => rfl) rfl id, h.runs, h.loaded⟩
      rw [hi] at he
      exact .inl (hadvance.endedWell_of_halt hr hf ht he)
    · rcases exec_runsOnOrFaulted (s := s.advance) hf hi he with hrun | hfault
      · exact absurd (hr.symm.trans (hrun.symm.trans ht)) (by decide)
      · exact .inr ⟨hended ((exec_phase he).trans s.advance_phase) ht, hfault⟩

end running

/-- Settles O56: a HALT that stops leaves no live process, the invariants then leave no mapped page and the bitmap of
Reset; every other instruction that clears RUN does so by a fault. -/
theorem runEndsWellOrByFault : Obligations.RunEndsWellOrByFault :=
  fun _ _ h hr hf ht => ⟨h.endedWell_of_halt hr hf ht, h.ended_of_step hr hf ht⟩

end Sys2Proof.Machine
end

section
/-! The host commands (70 R306 to R312): when each is accepted, and what an accepted one returns and does. -/

namespace Sys2Proof.Machine

/-- The host's Load does what the OS's Load does, and counts as given (70 R309). -/
theorem hostLoad_effect (s : State) (pid : Word) :
    (s.hostLoad pid).rpc = s.savedPc pid ∧ (s.hostLoad pid).ptbr = s.savedPtbr pid ∧
      (s.hostLoad pid).phys 0x0000 = pid ∧ (∀ a : Word, a ≠ 0x0000 → (s.hostLoad pid).phys a = s.phys a) ∧
      SameRegs s (s.hostLoad pid) ∧ (s.hostLoad pid).rcnd = s.rcnd ∧ SameStreams s (s.hostLoad pid) ∧
      (s.hostLoad pid).run = s.run ∧ (s.hostLoad pid).fault = s.fault ∧ (s.hostLoad pid).faddr = s.faddr ∧
      (s.hostLoad pid).phase = .loaded :=
  have h := LoadsOnly.load s pid
  ⟨h.rpc, h.ptbr, h.current, h.others, h.regs, h.rcnd, ⟨rfl, rfl, rfl, rfl⟩, h.run, h.fault, h.faddr, rfl⟩

/-- What Create leaves alone, and what it returns: the old `PROC_COUNT`, which is then one higher, or failure with one
record (46 R223; 70 R308). -/
theorem create_effect (s : State) (code heap : List Word) :
    SameRegs s (s.create code heap).2 ∧ (s.create code heap).2.rcnd = s.rcnd ∧
      (s.create code heap).2.rpc = s.rpc ∧ SameControl s (s.create code heap).2 ∧
      (createReply (s.create code heap).1 = .created (s.phys 0x0001) ∧
          (s.create code heap).2.phys 0x0001 = s.phys 0x0001 + 1 ∧ (s.create code heap).2.diagOut = s.diagOut ∨
        createReply (s.create code heap).1 = .createFailed ∧
          ∃ e, (s.create code heap).2.diagOut = s.diagOut ++ [.recoverable e]) := by
  rcases s.create_cases code heap with ⟨_, e⟩ | ⟨m, _, _, e⟩ | ⟨f, m, _, _, e⟩ <;> rw [e] <;>
    refine ⟨fun _ => rfl, rfl, rfl, ⟨rfl, rfl, rfl, rfl, rfl⟩, ?_⟩
  · exact .inr ⟨rfl, _, rfl⟩
  · exact .inl ⟨rfl, Mem.phys_setPhys_self _ _ _, rfl⟩
  · exact .inr ⟨rfl, _, rfl⟩

/-! ## When a command is accepted, and what it then answers -/

theorem State.acceptsStart_iff (s : State) :
    s.acceptsBoot = true ∧ s.phase = .loaded ↔ s.run = false ∧ s.fault = 0 ∧ s.phase = .loaded := by
  rw [State.acceptsBoot_iff]
  constructor
  · rintro ⟨⟨hrun, hfault, _⟩, hl⟩
    exact ⟨hrun, hfault, hl⟩
  · rintro ⟨hrun, hfault, hl⟩
    exact ⟨⟨hrun, hfault, by rw [hl]; decide⟩, hl⟩

theorem State.acceptsLoad_iff (s : State) (pid : Word) : s.acceptsBoot = true ∧ s.isLivePid pid = true ↔
    s.run = false ∧ s.fault = 0 ∧ s.phase ≠ .started ∧ pid.toNat < s.count ∧ s.pidWord pid = pid := by
  rw [State.acceptsBoot_iff, State.isLivePid_iff, pidWord_eq, and_assoc, and_assoc]
  rfl

theorem State.acceptsCreate_iff (s : State) (code heap : List Word) :
    s.acceptsBoot = true ∧ code.length ≤ 4096 ∧ heap.length ≤ 4096 ↔
      s.run = false ∧ s.fault = 0 ∧ s.phase ≠ .started ∧ code.length ≤ 4096 ∧ heap.length ≤ 4096 := by
  rw [State.acceptsBoot_iff, and_assoc, and_assoc]

section accepted
variable {s t : State} {r : Reply}

theorem hostAct_start_eq_iff : hostAct .start s = .next (r, t) ↔
    (s.acceptsBoot = true ∧ s.phase = .loaded) ∧ r = .done ∧ t = s.hostStart := by
  constructor
  · intro e
    simpa [and_assoc] using hostAct_cases e
  · rintro ⟨⟨hboot, hl⟩, rfl, rfl⟩
    exact hostAct_start hboot hl

theorem hostAct_load_eq_iff {pid : Word} : hostAct (.load pid) s = .next (r, t) ↔
    (s.acceptsBoot = true ∧ s.isLivePid pid = true) ∧ r = .done ∧ t = s.hostLoad pid := by
  constructor
  · intro e
    simpa [and_assoc] using hostAct_cases e
  · rintro ⟨⟨hboot, hlive⟩, rfl, rfl⟩
    exact hostAct_load hboot hlive

theorem hostAct_create_eq_iff {code heap : List Word} : hostAct (.create code heap) s = .next (r, t) ↔
    (s.acceptsBoot = true ∧ code.length ≤ 4096 ∧ heap.length ≤ 4096) ∧
      r = createReply (s.create code heap).1 ∧ t = (s.create code heap).2 := by
  constructor
  · intro e
    simpa [and_assoc] using hostAct_cases e
  · rintro ⟨⟨hboot, hcode, hheap⟩, rfl, rfl⟩
    exact hostAct_create hboot hcode hheap

theorem hostAct_readOut_eq_iff : hostAct .readOut s = .next (r, t) ↔
    s.run = false ∧ r = .observed s.readOut ∧ t = s := by
  constructor
  · intro e
    simpa using hostAct_cases e
  · rintro ⟨hrun, rfl, rfl⟩
    rw [hostAct, hrun]
    rfl

end accepted

/-- Where a command answers one reply and state exactly under a condition, it is accepted exactly there. -/
theorem accepted_iff {c : Command} {s t : State} {r : Reply} {P : Prop}
    (h : ∀ {r' t'}, hostAct c s = .next (r', t') ↔ P ∧ r' = r ∧ t' = t) :
    (∃ r' t', hostAct c s = .next (r', t')) ↔ P :=
  ⟨fun ⟨_, _, e⟩ => (h.1 e).1, fun hP => ⟨r, t, h.2 ⟨hP, rfl, rfl⟩⟩⟩

/-- Settles O57: each command's equation says when it is accepted and what it then answers. -/
theorem hostCommandsFollowProtocol : Obligations.HostCommandsFollowProtocol := by
  refine fun s => ⟨rfl, fun _ => rfl, (accepted_iff hostAct_start_eq_iff).trans s.acceptsStart_iff,
    fun r t e => (hostAct_start_eq_iff.1 e).2,
    fun pid => (accepted_iff hostAct_load_eq_iff).trans (s.acceptsLoad_iff pid), fun pid r t e => ?_,
    fun code heap => (accepted_iff hostAct_create_eq_iff).trans (s.acceptsCreate_iff code heap),
    fun code heap r t e => ?_,
    accepted_iff hostAct_readOut_eq_iff, fun r t e => ?_⟩
  · obtain ⟨_, hr, rfl⟩ := hostAct_load_eq_iff.1 e
    exact ⟨hr, hostLoad_effect s pid⟩
  · obtain ⟨_, rfl, rfl⟩ := hostAct_create_eq_iff.1 e
    exact create_effect s code heap
  · obtain ⟨_, hr, ht⟩ := hostAct_readOut_eq_iff.1 e
    exact ⟨ht, s.readOut, hr, rfl, rfl, rfl, rfl, rfl, rfl, rfl, rfl, rfl⟩

end Sys2Proof.Machine
end

section
/-! Words the spec works out (40 to 43, 95 part 2). -/

namespace Sys2Proof

/-- Settles O5: the decoder computes each of the thirteen words. -/
theorem specExampleWordsDecode : Obligations.SpecExampleWordsDecode := by
  unfold Obligations.SpecExampleWordsDecode
  decide

end Sys2Proof
end
